-- ==== Sys2Proof/Word.lean ====
section
/-! DEFINITION. The instruction word, the register number and the slot number of the core (spec 00_scope.md rule R4;
10_state.md rule R20; 30_encoding.md rule R71). -/

namespace Sys2Proof

/-- An instruction word: 32 bits, whatever the width of a register (rule R71). -/
abbrev Word := BitVec 32

/-- A register index `0 .. 31` (rules R4, R20: `NREGS = 32` general registers, none of them special). -/
abbrev Reg := Fin 32

/-- The number of a slot of the branch-target buffer, `BTB_ENTRIES = 4` (rules R4, R34). -/
abbrev Slot := Fin 4

end Sys2Proof
end

