-- ==== Sys2Proof/Config.lean ====
section
/-! DEFINITION. What is fixed for one core (spec 00_scope.md rules R4, R5): the parameters and the hazard strategy.
The spec leaves no value free, so there is no opaque constant here. -/

namespace Sys2Proof

/-- The two hazard strategies, "selected once at construction" (rule R4). -/
inductive Strategy where
  /-- The register-busy scoreboard, no bypass. -/
  | stallOnly
  /-- The bypass network with the load-use interlock. -/
  | forwarding
deriving DecidableEq, Repr

/-- The parameters of rule R5, with the spec's defaults, and `STRATEGY` of rule R4. The state of a core is a state of
its configuration, so no step changes it, and what is stated for every configuration is stated for every value of the
parameters. The two parameters that are no field: `N` is the length of the loaded program, `MAX_CYCLES` the argument
of `run`. Where a rule writes 32, 16 or 64 for `XLEN`, `IMM_BITS` or `COUNTER_BITS` it writes the default; the model
reads the parameter there (log entry 2). -/
structure Config where
  /-- `XLEN`, the bits of a register, of `pc`, of a cell, of an immediate and of a latch value. -/
  xlen : Nat := 32
  /-- `IMM_BITS`, the bits of the immediate field of an instruction word. -/
  immBits : Nat := 16
  /-- `COUNTER_BITS`, the bits of `cycles` and `retired`. -/
  counterBits : Nat := 64
  /-- `CODE_BASE`, the address of instruction-store entry 0. -/
  codeBase : Nat := 4000
  /-- `DMEM_SIZE`, the number of cells of the data memory. -/
  dmemSize : Nat := 4096
  /-- `POSTINC_STEP`, what `LOADP` and `STOREP` add to their base. -/
  postincStep : Nat := 4
  /-- `STRATEGY`. DESIGN CHOICE: the spec names no default; log entry 3. -/
  strategy : Strategy := .stallOnly
deriving DecidableEq, Repr

/-- A value of `XLEN` bits: a register, `pc`, a cell of the data memory, a sign-extended immediate, a latch value
(rules R5, R9). `u(v)` of the spec is `v.toNat`, `s(v)` is `v.toInt`, and `+`, `-`, `*` are modulo `2^XLEN`. -/
abbrev Config.Value (c : Config) : Type := BitVec c.xlen

/-- A counter of `COUNTER_BITS` bits (rules R5, R30). -/
abbrev Config.Counter (c : Config) : Type := BitVec c.counterBits

/-- The default of every parameter (rule R5). -/
def Config.standard : Config where
  xlen := 32
  immBits := 16
  counterBits := 64
  codeBase := 4000
  dmemSize := 4096
  postincStep := 4
  strategy := .stallOnly

/-- What the parameters must satisfy whatever the program: `CODE_BASE` "must be a multiple of 4" (rule R5); the
immediate field leaves the fields of op and two registers their places, "16 bits is what is left of a 32-bit word
after opcode and two registers" (92_eei_decisions.md D8), and sign extension does not shorten it (DEDUCED, log entry
2). -/
def Config.wf (c : Config) : Bool :=
  decide (c.codeBase % 4 = 0) && decide (c.immBits ≤ 16) && decide (c.immBits ≤ c.xlen)

/-- `CODE_BASE` as the value `pc` takes at reset (rules R22, R240). -/
def Config.entryPoint (c : Config) : c.Value := BitVec.ofNat c.xlen c.codeBase

end Sys2Proof
end

