-- ==== Sys2Proof/Syntax.lean ====
section
/-! DEFINITION. The instructions (spec 30_encoding.md rules R70, R74): the syntax `Instr`, one constructor for each
row of the opcode table, and the instruction record that the instruction store and the latches hold. -/

namespace Sys2Proof

/-- The 26 instructions of rule R74, operands in the order of the assembler text. An immediate is the signed number of
that text (rules R70, R86), which a record holds in `XLEN` bits; `Instr.wf` says which have a word. -/
inductive Instr where
  | add (rd rs1 rs2 : Reg)
  | sub (rd rs1 rs2 : Reg)
  | mul (rd rs1 rs2 : Reg)
  | div (rd rs1 rs2 : Reg)
  | and (rd rs1 rs2 : Reg)
  | or (rd rs1 rs2 : Reg)
  | xor (rd rs1 rs2 : Reg)
  | movc (rd : Reg) (imm : Int)
  | load (rd rs1 : Reg) (imm : Int)
  | store (rs1 rs2 : Reg) (imm : Int)
  | bz (imm : Int)
  | bnz (imm : Int)
  | halt
  | addl (rd rs1 : Reg) (imm : Int)
  | subl (rd rs1 : Reg) (imm : Int)
  | loadp (rd rs1 : Reg) (imm : Int)
  | storep (rs1 rs2 : Reg) (imm : Int)
  | cmp (rs1 rs2 : Reg)
  | cml (rs1 : Reg) (imm : Int)
  | bp (imm : Int)
  | bnp (imm : Int)
  | bn (imm : Int)
  | bnn (imm : Int)
  | jump (rs1 : Reg) (imm : Int)
  | jalr (rd rs1 : Reg) (imm : Int)
  | nop
deriving DecidableEq, Repr

/-- The opcode kind of a record: one of the 26, or `INVALID` (rules R70, R75, R76). -/
inductive Kind where
  | add | sub | mul | div | and | or | xor | movc | load | store | bz | bnz | halt
  | addl | subl | loadp | storep | cmp | cml | bp | bnp | bn | bnn | jump | jalr | nop
  | invalid
deriving DecidableEq, Repr

/-- The eight formats of rule R72. -/
inductive Format where
  | r3 | ri | st | mc | cr | ci | br | z
deriving DecidableEq, Repr

/-- The instruction record `kind, rd, rs1, rs2, imm` with an immediate of `n` bits (rule R70): `IMM_BITS` as the word
holds it, `XLEN` as the instruction store and the latches hold it. The display text of the mnemonic is no state of the
core. -/
structure Record (n : Nat) where
  kind : Kind
  rd : Reg
  rs1 : Reg
  rs2 : Reg
  imm : BitVec n
deriving DecidableEq, Repr

/-- One entry of the instruction store of a core with `XLEN = n`: the 32-bit word, or a decoded record (rule R50). A
record that was not decoded from a word may carry any immediate of `XLEN` bits (rule R73). -/
inductive Entry (n : Nat) where
  | word (w : Word)
  | record (r : Record n)
deriving DecidableEq, Repr

end Sys2Proof
end

