-- ==== Sys2Proof/Machine/State.lean ====
section
/-! DEFINITION. The state of the core (spec 10_state.md rules R20 to R38), as plain data, and its value after reset
(70_reset_and_hazards.md rule R240). INVENTORY.md lists each piece with its rule. -/

namespace Sys2Proof.Machine

/-- The three condition flags `Z`, `P`, `N` (rule R24). -/
structure Flags where
  z : Bool
  p : Bool
  n : Bool
deriving DecidableEq, Repr

/-- The kind of the fault register (rules R31, R220). -/
inductive FaultKind where
  /-- No fault recorded. -/
  | none
  /-- An `INVALID` instruction reached Execute (rule R222). -/
  | invalidOpcode
  /-- `DIV` by zero (rule R223). -/
  | divisionByZero
  /-- A load or store outside the data memory (rule R224). -/
  | memoryFault
  /-- A performed transfer to a target that is not a multiple of 4 (rule R225). -/
  | misalignedTarget
deriving DecidableEq, Repr

/-- The fault register `kind, pc, info` (rule R31) of a core with `XLEN = n`. -/
structure FaultReg (n : Nat) where
  kind : FaultKind
  pc : BitVec n
  info : BitVec n
deriving DecidableEq, Repr

/-- A pipeline latch (rule R32) of a core with `XLEN = n`: the record of the instruction and the fields the stages
write. -/
structure Latch (n : Nat) extends Record n where
  /-- The latch holds an instruction its stage has still to process. -/
  valid : Bool
  /-- Address of the instruction. -/
  pc : BitVec n
  rs1Value : BitVec n
  rs2Value : BitVec n
  result : BitVec n
  memAddr : BitVec n
  /-- The post-incremented base of `LOADP` and `STOREP`. -/
  baseNew : BitVec n
  btbHit : Bool
  btbIdx : Slot
  predTaken : Bool
deriving DecidableEq, Repr

/-- An entry of the branch-target buffer (rule R34) of a core with `XLEN = n`. -/
structure BtbEntry (n : Nat) where
  valid : Bool
  tag : BitVec n
  h0 : Bool
  h1 : Bool
  target : BitVec n
deriving DecidableEq, Repr

/-- Which of the spec's two descriptions of the machine a step follows (rule R251: "A model may therefore be
built in two layers"). The model's own static field (log entry 1); the reset state runs the pipeline. -/
inductive Layer where
  /-- One step is one clock cycle, `Tick()` of rule R141: what the hardware does. -/
  | pipeline
  /-- One step is one instruction of the sequential machine of rule R250. -/
  | sequential
deriving DecidableEq, Repr

/-- Everything the spec gives a core with the parameters `c` (rules R20 to R38). -/
structure CoreState (c : Config) where
  /-- `x[0] .. x[31]` (rule R20). -/
  x : Vector c.Value 32
  /-- The address Fetch reads next (rule R22). -/
  pc : c.Value
  /-- `Z`, `P`, `N` (rule R24). -/
  flags : Flags
  /-- `DMEM` (rule R53): the cells that do not hold the reset value, as (cell index, value) (log entry 9). -/
  dmem : List (Nat × c.Value)
  /-- `IMEM[0 .. N-1]` (rule R50). -/
  imem : List (Entry c.xlen)
  /-- Clock cycles (rule R30). -/
  cycles : c.Counter
  /-- Retired instructions (rule R30). -/
  retired : c.Counter
  /-- The redirect bubble is pending (rule R29). -/
  redirectPending : Bool
  /-- `HALT` has retired (rule R29). -/
  halted : Bool
  /-- Fetching is enabled (rule R29). -/
  fetchEnabled : Bool
  /-- Decode holds its instruction in this cycle (rule R29). -/
  stall : Bool
  /-- The fault register (rule R31). -/
  fault : FaultReg c.xlen
  /-- `L_F` (rule R32). -/
  lF : Latch c.xlen
  /-- `L_D`. -/
  lD : Latch c.xlen
  /-- `L_EX`. -/
  lEX : Latch c.xlen
  /-- `L_MEM`. -/
  lMEM : Latch c.xlen
  /-- `L_WB`. -/
  lWB : Latch c.xlen
  /-- `BTB[0 .. 3]` (rule R34). -/
  btb : Vector (BtbEntry c.xlen) 4
  /-- `busy[0 .. 31]` (rule R36). -/
  busy : Vector Bool 32
deriving DecidableEq, Repr

/-- The state of the machine: a configuration, a layer and a core with that configuration. -/
structure State where
  /-- The parameters and `STRATEGY`, static (rules R4, R5, R7). -/
  config : Config
  /-- The model's own static field (log entry 1). -/
  layer : Layer
  /-- What the spec gives the core. -/
  core : CoreState config
deriving DecidableEq, Repr

/-- No step ends in a fault outcome. The four faults of the spec are recorded in the fault register and the
machine goes to a next state that stays as it is (rules R220, R221), so this type has no constructor
(log entry 5). Safe: nothing is cut off. -/
inductive Fault where
deriving DecidableEq, Repr

/-- Why a step has no meaning. -/
inductive Refusal where
  /-- An instruction that has no meaning in the model. No arm of `exec` raises it. Safe. -/
  | notModelled (mnemonic : String)
  /-- Raised by `step` when the instruction store is empty: "with `N = 0` the core is not started at all"
  (rule R8; 93_implementation_defined.md U11 `refuse`). Safe. -/
  | noProgram
  /-- Raised by `step` when the parameters or the length of the program break what rules R5 and R242 (c) require
  before reset is released: "`CODE_BASE` must be a multiple of 4 and `CODE_BASE + 4*N <= 2^32`" (log entry 4), or when
  the immediate field has no place in an instruction word (log entry 2). Safe. -/
  | badConfiguration
deriving DecidableEq, Repr

/-- A latch after reset: invalid, every other field 0, `kind` the kind of the all-zero word (rule R240). -/
def Latch.empty {n : Nat} : Latch n where
  kind := .add
  rd := 0
  rs1 := 0
  rs2 := 0
  imm := 0
  valid := false
  pc := 0
  rs1Value := 0
  rs2Value := 0
  result := 0
  memAddr := 0
  baseNew := 0
  btbHit := false
  btbIdx := 0
  predTaken := false

/-- A branch-target-buffer entry after reset (rule R240). -/
def BtbEntry.empty {n : Nat} : BtbEntry n where
  valid := false
  tag := 0
  h0 := false
  h1 := false
  target := 0

/-- A core with parameters `c` and a loaded program right after reset (rule R240); the loader fills the instruction
store before reset is released (rule R50). -/
def CoreState.resetWith (c : Config) (program : List (Entry c.xlen)) : CoreState c where
  x := Vector.replicate 32 0
  pc := c.entryPoint
  flags := ⟨false, false, false⟩
  dmem := []
  imem := program
  cycles := 0
  retired := 0
  redirectPending := false
  halted := false
  fetchEnabled := true
  stall := false
  fault := ⟨.none, 0, 0⟩
  lF := .empty
  lD := .empty
  lEX := .empty
  lMEM := .empty
  lWB := .empty
  btb := Vector.replicate 4 .empty
  busy := Vector.replicate 32 false

/-- The machine right after reset, with the default parameters and nothing loaded (rule R240; log entries 3 and 6). -/
def State.reset : State where
  config := Config.standard
  layer := .pipeline
  core := CoreState.resetWith Config.standard []

end Sys2Proof.Machine
end

