-- ==== Sys2Proof/Machine/Flags.lean ====
section
/-! DEFINITION. The two flag computations and the six branch conditions (spec 10_state.md rules R25, R26;
42_control_transfer.md rules R121 to R126). -/

namespace Sys2Proof.Machine

/-- `SetFlags(v)` (rule R25): the sign of the wrapped result. -/
def Flags.ofResult {n : Nat} (v : BitVec n) : Flags where
  z := decide (v.toInt = 0)
  p := decide (0 < v.toInt)
  n := decide (v.toInt < 0)

/-- `CompareFlags(a, b)` (rule R26): the operands compared as signed integers, without wrap-around. -/
def Flags.ofCompare {n : Nat} (a b : BitVec n) : Flags where
  z := decide (a.toInt = b.toInt)
  p := decide (b.toInt < a.toInt)
  n := decide (a.toInt < b.toInt)

/-- `cond` of `BZ` (rule R121). -/
def condZ (f : Flags) : Bool := f.z
/-- `cond` of `BNZ` (rule R122). -/
def condNZ (f : Flags) : Bool := !f.z
/-- `cond` of `BP` (rule R123). -/
def condP (f : Flags) : Bool := f.p
/-- `cond` of `BNP` (rule R124). -/
def condNP (f : Flags) : Bool := !f.p
/-- `cond` of `BN` (rule R125). -/
def condN (f : Flags) : Bool := f.n
/-- `cond` of `BNN` (rule R126). -/
def condNN (f : Flags) : Bool := !f.n

end Sys2Proof.Machine
end

