-- ==== Sys2Proof/WellFormed.lean ====
section
/-! DEFINITION. Which instructions have a word (spec 30_encoding.md rules R73, R80). A register field of 5 bits cannot
be out of range (rule R77), so the immediate is the only check. -/

namespace Sys2Proof

/-- The number is one of a signed field of `b` bits (rule R73): `-32768 .. 32767` for the default 16. -/
def immFits (b : Nat) (imm : Int) : Bool := decide (-2 ^ b ≤ 2 * imm) && decide (2 * imm < 2 ^ b)

/-- The instruction has a word with an immediate field of `b = IMM_BITS` bits (rule R80: a record whose `imm` is
outside the range has none). -/
def Instr.wf (b : Nat) : Instr → Bool
  | .add _ _ _ | .sub _ _ _ | .mul _ _ _ | .div _ _ _ | .and _ _ _ | .or _ _ _ | .xor _ _ _ => true
  | .movc _ imm => immFits b imm
  | .load _ _ imm | .store _ _ imm | .loadp _ _ imm | .storep _ _ imm => immFits b imm
  | .addl _ _ imm | .subl _ _ imm | .jalr _ _ imm => immFits b imm
  | .bz imm | .bnz imm | .bp imm | .bnp imm | .bn imm | .bnn imm => immFits b imm
  | .cml _ imm | .jump _ imm => immFits b imm
  | .cmp _ _ | .halt | .nop => true

end Sys2Proof
end

