-- ==== Sys2Proof/Decode.lean ====
section
/-! DEFINITION. Decoding and encoding (spec 30_encoding.md rules R71 to R80). The decoder is total on 32-bit words and
rejects a reserved opcode by name; the encoder gives the canonical word. Written from the spec's tables of fields,
formats and opcode numbers. -/

namespace Sys2Proof

/-! The opcode map (rule R74) and the formats (rule R72). -/

/-- The opcode number of a kind; `INVALID` has none. -/
def Kind.opcode : Kind → Option Nat
  | .add => some 0
  | .sub => some 1
  | .mul => some 2
  | .div => some 3
  | .and => some 4
  | .or => some 5
  | .xor => some 6
  | .movc => some 7
  | .load => some 8
  | .store => some 9
  | .bz => some 10
  | .bnz => some 11
  | .halt => some 12
  | .addl => some 13
  | .subl => some 14
  | .loadp => some 15
  | .storep => some 16
  | .cmp => some 17
  | .cml => some 18
  | .bp => some 19
  | .bnp => some 20
  | .bn => some 21
  | .bnn => some 22
  | .jump => some 23
  | .jalr => some 24
  | .nop => some 25
  | .invalid => none

/-- The rows of rule R74 in the order of their opcode numbers. -/
def opcodeMap : List Kind :=
  [.add, .sub, .mul, .div, .and, .or, .xor, .movc, .load, .store, .bz, .bnz, .halt,
   .addl, .subl, .loadp, .storep, .cmp, .cml, .bp, .bnp, .bn, .bnn, .jump, .jalr, .nop]

/-- The kind of an opcode number: row `op` of rule R74, and `INVALID` for `26 .. 63` (rules R75, R76). -/
def Kind.ofOpcode (op : Nat) : Kind := (opcodeMap[op]?).getD .invalid

/-- The format of a kind (rule R72). `INVALID` has no fields, as format Z. -/
def Kind.format : Kind → Format
  | .add | .sub | .mul | .div | .and | .or | .xor => .r3
  | .addl | .subl | .load | .loadp | .jalr => .ri
  | .store | .storep => .st
  | .movc => .mc
  | .cmp => .cr
  | .cml | .jump => .ci
  | .bz | .bnz | .bp | .bnp | .bn | .bnn => .br
  | .nop | .halt | .invalid => .z

/-! The fields of a word (rule R71). -/

/-- A 5-bit register field as a register index. -/
def regOfBits (b : BitVec 5) : Reg := ⟨b.toNat, b.isLt⟩

/-- The 5-bit register field of a register index. -/
def bitsOfReg (r : Reg) : BitVec 5 := BitVec.ofNat 5 r.val

/-- `op`, bits 31:26. -/
def fieldOp (w : Word) : BitVec 6 := w.extractLsb' 26 6
/-- Register field A, bits 25:21. -/
def fieldA (w : Word) : Reg := regOfBits (w.extractLsb' 21 5)
/-- Register field B, bits 20:16. -/
def fieldB (w : Word) : Reg := regOfBits (w.extractLsb' 16 5)
/-- Register field C, bits 15:11. -/
def fieldC (w : Word) : Reg := regOfBits (w.extractLsb' 11 5)
/-- The immediate field, bits `IMM_BITS-1:0`; 15:0 for the default (rules R5, R73). -/
def fieldImm (b : Nat) (w : Word) : BitVec b := w.extractLsb' 0 b

/-! Decoding (rule R75). -/

/-- The record of a kind whose fields stand in `w`, by the format of the kind (the table of rule R75), the immediate
as the `b` bits of its field. -/
def Record.ofFormat (b : Nat) (k : Kind) (w : Word) : Format → Record b
  | .r3 => ⟨k, fieldA w, fieldB w, fieldC w, 0⟩
  | .ri => ⟨k, fieldA w, fieldB w, 0, fieldImm b w⟩
  | .st => ⟨k, 0, fieldA w, fieldB w, fieldImm b w⟩
  | .mc => ⟨k, fieldA w, 0, 0, fieldImm b w⟩
  | .cr => ⟨k, 0, fieldB w, fieldC w, 0⟩
  | .ci => ⟨k, 0, fieldB w, 0, fieldImm b w⟩
  | .br => ⟨k, 0, 0, 0, fieldImm b w⟩
  | .z => ⟨k, 0, 0, 0, 0⟩

/-- The record a word decodes to: total, unused bits ignored (rule R77), a reserved opcode gives the
`INVALID` record with every field 0 (rule R76). -/
def Record.ofWord (b : Nat) (w : Word) : Record b :=
  let k := Kind.ofOpcode (fieldOp w).toNat
  Record.ofFormat b k w k.format

/-- The record with its immediate sign-extended: `imm = sext_16(bits[15:0])` (rule R73). -/
def Record.sext {b : Nat} (n : Nat) (r : Record b) : Record n := ⟨r.kind, r.rd, r.rs1, r.rs2, r.imm.signExtend n⟩

/-- The instruction of a record. A field the kind does not use is ignored (rule R70); `INVALID` is no
instruction. -/
def Record.instr? {n : Nat} (r : Record n) : Option Instr :=
  match r.kind with
  | .add => some (.add r.rd r.rs1 r.rs2)
  | .sub => some (.sub r.rd r.rs1 r.rs2)
  | .mul => some (.mul r.rd r.rs1 r.rs2)
  | .div => some (.div r.rd r.rs1 r.rs2)
  | .and => some (.and r.rd r.rs1 r.rs2)
  | .or => some (.or r.rd r.rs1 r.rs2)
  | .xor => some (.xor r.rd r.rs1 r.rs2)
  | .movc => some (.movc r.rd r.imm.toInt)
  | .load => some (.load r.rd r.rs1 r.imm.toInt)
  | .store => some (.store r.rs1 r.rs2 r.imm.toInt)
  | .bz => some (.bz r.imm.toInt)
  | .bnz => some (.bnz r.imm.toInt)
  | .halt => some .halt
  | .addl => some (.addl r.rd r.rs1 r.imm.toInt)
  | .subl => some (.subl r.rd r.rs1 r.imm.toInt)
  | .loadp => some (.loadp r.rd r.rs1 r.imm.toInt)
  | .storep => some (.storep r.rs1 r.rs2 r.imm.toInt)
  | .cmp => some (.cmp r.rs1 r.rs2)
  | .cml => some (.cml r.rs1 r.imm.toInt)
  | .bp => some (.bp r.imm.toInt)
  | .bnp => some (.bnp r.imm.toInt)
  | .bn => some (.bn r.imm.toInt)
  | .bnn => some (.bnn r.imm.toInt)
  | .jump => some (.jump r.rs1 r.imm.toInt)
  | .jalr => some (.jalr r.rd r.rs1 r.imm.toInt)
  | .nop => some .nop
  | .invalid => none

/-- Why a word is no instruction. -/
inductive DecodeError where
  /-- `op` is one of `26 .. 63` (rule R76). -/
  | reservedOpcode (op : Nat)
deriving DecidableEq, Repr

/-- The decoder of a core with `IMM_BITS = b`: the instruction a word encodes, or the name of what is wrong with it.
-/
def decode (b : Nat) (w : Word) : Except DecodeError Instr :=
  match (Record.ofWord b w).instr? with
  | some i => .ok i
  | none => .error (.reservedOpcode (fieldOp w).toNat)

/-- The record of an instruction, the immediate in `n` bits, unused fields 0 (rules R70, R75). -/
def Instr.record (n : Nat) : Instr → Record n
  | .add rd rs1 rs2 => ⟨.add, rd, rs1, rs2, 0⟩
  | .sub rd rs1 rs2 => ⟨.sub, rd, rs1, rs2, 0⟩
  | .mul rd rs1 rs2 => ⟨.mul, rd, rs1, rs2, 0⟩
  | .div rd rs1 rs2 => ⟨.div, rd, rs1, rs2, 0⟩
  | .and rd rs1 rs2 => ⟨.and, rd, rs1, rs2, 0⟩
  | .or rd rs1 rs2 => ⟨.or, rd, rs1, rs2, 0⟩
  | .xor rd rs1 rs2 => ⟨.xor, rd, rs1, rs2, 0⟩
  | .movc rd imm => ⟨.movc, rd, 0, 0, BitVec.ofInt n imm⟩
  | .load rd rs1 imm => ⟨.load, rd, rs1, 0, BitVec.ofInt n imm⟩
  | .store rs1 rs2 imm => ⟨.store, 0, rs1, rs2, BitVec.ofInt n imm⟩
  | .bz imm => ⟨.bz, 0, 0, 0, BitVec.ofInt n imm⟩
  | .bnz imm => ⟨.bnz, 0, 0, 0, BitVec.ofInt n imm⟩
  | .halt => ⟨.halt, 0, 0, 0, 0⟩
  | .addl rd rs1 imm => ⟨.addl, rd, rs1, 0, BitVec.ofInt n imm⟩
  | .subl rd rs1 imm => ⟨.subl, rd, rs1, 0, BitVec.ofInt n imm⟩
  | .loadp rd rs1 imm => ⟨.loadp, rd, rs1, 0, BitVec.ofInt n imm⟩
  | .storep rs1 rs2 imm => ⟨.storep, 0, rs1, rs2, BitVec.ofInt n imm⟩
  | .cmp rs1 rs2 => ⟨.cmp, 0, rs1, rs2, 0⟩
  | .cml rs1 imm => ⟨.cml, 0, rs1, 0, BitVec.ofInt n imm⟩
  | .bp imm => ⟨.bp, 0, 0, 0, BitVec.ofInt n imm⟩
  | .bnp imm => ⟨.bnp, 0, 0, 0, BitVec.ofInt n imm⟩
  | .bn imm => ⟨.bn, 0, 0, 0, BitVec.ofInt n imm⟩
  | .bnn imm => ⟨.bnn, 0, 0, 0, BitVec.ofInt n imm⟩
  | .jump rs1 imm => ⟨.jump, 0, rs1, 0, BitVec.ofInt n imm⟩
  | .jalr rd rs1 imm => ⟨.jalr, rd, rs1, 0, BitVec.ofInt n imm⟩
  | .nop => ⟨.nop, 0, 0, 0, 0⟩

/-- The kind of an instruction. -/
def Instr.kind (i : Instr) : Kind := (i.record 0).kind

/-! Entries of the instruction store (rule R50). -/

/-- The record Fetch copies out of an entry (rule R75: decoding is done once, at Fetch), by a core with
`IMM_BITS = b`. -/
def Entry.toRecord {n : Nat} (b : Nat) : Entry n → Record n
  | .word w => (Record.ofWord b w).sext n
  | .record r => r

/-! Encoding (rules R72, R80). -/

/-- The canonical word with opcode number `op` and the fields of `r`, by format; every unused bit is 0. The immediate
stands in the low bits, at most 16 of them. -/
def wordOfFormat {b : Nat} (op : BitVec 6) (r : Record b) : Format → Word
  | .r3 => op ++ bitsOfReg r.rd ++ bitsOfReg r.rs1 ++ bitsOfReg r.rs2 ++ 0#11
  | .ri => op ++ bitsOfReg r.rd ++ bitsOfReg r.rs1 ++ r.imm.setWidth 16
  | .st => op ++ bitsOfReg r.rs1 ++ bitsOfReg r.rs2 ++ r.imm.setWidth 16
  | .mc => op ++ bitsOfReg r.rd ++ 0#5 ++ r.imm.setWidth 16
  | .cr => op ++ 0#5 ++ bitsOfReg r.rs1 ++ bitsOfReg r.rs2 ++ 0#11
  | .ci => op ++ 0#5 ++ bitsOfReg r.rs1 ++ r.imm.setWidth 16
  | .br => op ++ 0#5 ++ 0#5 ++ r.imm.setWidth 16
  | .z => op ++ 0#26

/-- The canonical word of a well-formed instruction with `IMM_BITS = b`. -/
def encode (b : Nat) (i : Instr) : Word :=
  wordOfFormat (BitVec.ofNat 6 (i.kind.opcode.getD 63)) (i.record b) i.kind.format

/-- The bits of the immediate field. -/
def immMask (b : Nat) : Word := BitVec.ofNat 32 (2 ^ b - 1)

/-- The bits of a word that a format uses (rule R72); the decoder ignores the others (rule R77). -/
def Format.usedBits (b : Nat) : Format → Word
  | .r3 => 0xFFFFF800
  | .ri => 0xFFFF0000 ||| immMask b
  | .st => 0xFFFF0000 ||| immMask b
  | .mc => 0xFFE00000 ||| immMask b
  | .cr => 0xFC1FF800
  | .ci => 0xFC1F0000 ||| immMask b
  | .br => 0xFC000000 ||| immMask b
  | .z => 0xFC000000

/-- The instruction read from a row of the opcode table whose bits are `w`. Every instruction is one
32-bit word (rule R71) and the core sees no byte order (rule R57), so the word is the number itself. The table is that
of the default `IMM_BITS`. -/
def decodeTableWord (nbits w : Nat) : Option Instr :=
  (decode Config.standard.immBits (BitVec.ofNat 32 (w % 2 ^ nbits))).toOption

/-! Text (rule R86). -/

/-- The mnemonic of a kind, display text only (rule R70). -/
def Kind.mnemonic : Kind → String
  | .add => "ADD"
  | .sub => "SUB"
  | .mul => "MUL"
  | .div => "DIV"
  | .and => "AND"
  | .or => "OR"
  | .xor => "XOR"
  | .movc => "MOVC"
  | .load => "LOAD"
  | .store => "STORE"
  | .bz => "BZ"
  | .bnz => "BNZ"
  | .halt => "HALT"
  | .addl => "ADDL"
  | .subl => "SUBL"
  | .loadp => "LOADP"
  | .storep => "STOREP"
  | .cmp => "CMP"
  | .cml => "CML"
  | .bp => "BP"
  | .bnp => "BNP"
  | .bn => "BN"
  | .bnn => "BNN"
  | .jump => "JUMP"
  | .jalr => "JALR"
  | .nop => "NOP"
  | .invalid => "INVALID"

/-- A register in assembler text. -/
def regText (r : Reg) : String := "R" ++ toString r.val

/-- An immediate in assembler text: a decimal number, a leading minus for a negative one. -/
def immText (imm : Int) : String := "#" ++ toString imm

/-- The operands of an instruction in the order of the "operands" column of rule R74. -/
def Instr.operandTexts : Instr → List String
  | .add rd rs1 rs2 | .sub rd rs1 rs2 | .mul rd rs1 rs2 | .div rd rs1 rs2 | .and rd rs1 rs2 | .or rd rs1 rs2
  | .xor rd rs1 rs2 => [regText rd, regText rs1, regText rs2]
  | .addl rd rs1 imm | .subl rd rs1 imm | .load rd rs1 imm | .loadp rd rs1 imm | .jalr rd rs1 imm =>
    [regText rd, regText rs1, immText imm]
  | .store rs1 rs2 imm | .storep rs1 rs2 imm => [regText rs1, regText rs2, immText imm]
  | .movc rd imm => [regText rd, immText imm]
  | .cmp rs1 rs2 => [regText rs1, regText rs2]
  | .cml rs1 imm | .jump rs1 imm => [regText rs1, immText imm]
  | .bz imm | .bnz imm | .bp imm | .bnp imm | .bn imm | .bnn imm => [immText imm]
  | .nop | .halt => []

/-- The assembler line of an instruction, in the syntax of rule R86. -/
def Instr.text (i : Instr) : String :=
  match i.operandTexts with
  | [] => i.kind.mnemonic
  | ops => i.kind.mnemonic ++ " " ++ String.intercalate "," ops

end Sys2Proof
end

