-- ==== Sys2Proof/Machine/Ops.lean ====
section
/-! DEFINITION. The named operations over registers, data memory, instruction store and control state that the
meanings and the stages share, and taking a fault (spec 10_state.md, 20_memory.md, 60_exceptions.md). -/

namespace Sys2Proof.Machine

variable {c : Config}

/-! General registers (rules R20, R21). No register is hardwired. -/

/-- `x[r]`. -/
def CoreState.reg (s : CoreState c) (r : Reg) : c.Value := s.x[r.val]

/-- `x[r] <- v`. -/
def CoreState.setReg (s : CoreState c) (r : Reg) (v : c.Value) : CoreState c := { s with x := s.x.set r.val v }

/-- Write the three flags at once. -/
def CoreState.setFlags (s : CoreState c) (f : Flags) : CoreState c := { s with flags := f }

/-! Data memory: cells of `XLEN` bits addressed by cell index (rules R53, R54). -/

/-- What a cell that is not listed reads as: "after reset every cell holds 0" (rule R53). -/
def unlistedCell {n : Nat} : BitVec n := 0

/-- The content of cell `a`. -/
def readCell {n : Nat} : List (Nat × BitVec n) → Nat → BitVec n
  | [], _ => unlistedCell
  | (b, v) :: m, a => if a = b then v else readCell m a

/-- Cell `a` holds `v`, every other cell as before. An entry equal to the unlisted value is not kept. -/
def writeCell {n : Nat} : List (Nat × BitVec n) → Nat → BitVec n → List (Nat × BitVec n)
  | [], a, v => if v = unlistedCell then [] else [(a, v)]
  | (b, w) :: m, a, v =>
    if a < b then (if v = unlistedCell then (b, w) :: m else (a, v) :: (b, w) :: m)
    else if a = b then (if v = unlistedCell then m else (a, v) :: m)
    else (b, w) :: writeCell m a v

/-- Every cell index of `m` is above `a`, the indices rise strictly, and no entry holds the unlisted value. -/
def cellsAbove {n : Nat} : Nat → List (Nat × BitVec n) → Bool
  | _, [] => true
  | a, (b, v) :: m => decide (a < b) && decide (v ≠ unlistedCell) && cellsAbove b m

/-- The canonical form of the data memory: equal memories are equal lists. -/
def memoryWf {n : Nat} : List (Nat × BitVec n) → Bool
  | [] => true
  | (b, v) :: m => decide (v ≠ unlistedCell) && cellsAbove b m

/-- The cell index lies in the data memory: `u(addr) < DMEM_SIZE` (rules R56, R60; log entry 8). -/
def inMemory (addr : c.Value) : Bool := decide (addr.toNat < c.dmemSize)

/-- `MemRead(addr, 1)`: the cell, or nothing where rule R56 raises `MemoryFault`. -/
def CoreState.memRead (s : CoreState c) (addr : c.Value) : Option c.Value :=
  if inMemory addr then some (readCell s.dmem addr.toNat) else none

/-- The data memory replaced. -/
def CoreState.setCells (s : CoreState c) (m : List (Nat × c.Value)) : CoreState c := { s with dmem := m }

/-- `MemWrite(addr, 1, v)`: the state with the cell written, or nothing where rule R56 raises `MemoryFault`. -/
def CoreState.memWrite (s : CoreState c) (addr v : c.Value) : Option (CoreState c) :=
  if inMemory addr then some (s.setCells (writeCell s.dmem addr.toNat v)) else none

/-! Instruction store and program counter (rules R22, R51, R52, R131). -/

/-- The address is a multiple of 4 (rule R131: `t[1:0] == 0`). -/
def aligned {n : Nat} (t : BitVec n) : Bool := decide (t.toNat % 4 = 0)

/-- An address a fetch reads from (rule R52). Where the instruction store ends at the top of the address space, `pc +
4` after the last entry wraps to 0 (rule R23), and where it also begins at 0 that is an address of the store, which is
fetched from, as rule R52 has it: the model's choice, log entry 19. -/
def CoreState.fetchable (s : CoreState c) (a : c.Value) : Bool :=
  decide (c.codeBase ≤ a.toNat)
    && decide (a.toNat < c.codeBase + 4 * s.imem.length) && aligned a

/-- The entry index of an instruction address (rule R51). -/
def entryIndex (a : c.Value) : Nat := (a.toNat - c.codeBase) / 4

/-- The entry a fetch at `a` reads; nothing where `a` is not fetchable (rule R52). -/
def CoreState.entryAt (s : CoreState c) (a : c.Value) : Option (Entry c.xlen) :=
  if s.fetchable a then s.imem[entryIndex a]? else none

/-- The next sequential instruction address (rules R23, R71). -/
def nextPc {n : Nat} (a : BitVec n) : BitVec n := a + 4

/-! Busy bits (rules R36, R182, R183). -/

/-- `busy[r]`. -/
def CoreState.busyBit (s : CoreState c) (r : Reg) : Bool := s.busy[r.val]

/-- `busy[r] <- b`. -/
def CoreState.setBusy (s : CoreState c) (r : Reg) (b : Bool) : CoreState c := { s with busy := s.busy.set r.val b }

/-! Taking a fault (rules R220, R221). There is no return from one (rule R229): the machine stays stopped
until reset, so no operation stands beside this one. -/

/-- The cause code of a fault kind (rule R220). -/
def FaultKind.code : FaultKind → Nat
  | .none => 0
  | .invalidOpcode => 1
  | .divisionByZero => 2
  | .memoryFault => 3
  | .misalignedTarget => 4

/-- `raise K(p, i)`: the fault register is written and nothing else changes (rule R221). That the stages which
would follow are not evaluated, and that every later step does nothing, is `tick`'s and `seqStep`'s part. -/
def CoreState.raise (s : CoreState c) (k : FaultKind) (p info : c.Value) : CoreState c :=
  { s with fault := ⟨k, p, info⟩ }

/-- The machine is stopped: `HALT` has retired or a fault is recorded (rule R141). -/
def CoreState.stopped (s : CoreState c) : Bool := s.halted || decide (s.fault.kind ≠ .none)

/-! What holds before the machine may run (rules R5, R8, R242). -/

/-- Why the core is not started on this program with these parameters. -/
def CoreState.bootProblem (s : CoreState c) : Option Refusal :=
  if s.imem.isEmpty then some .noProgram
  else if c.wf && decide (c.codeBase + 4 * s.imem.length ≤ 2 ^ c.xlen) then none
  else some .badConfiguration

/-! Completing an instruction of the sequential machine (rule R250): the next `pc`, and the instruction counted
as retired (DEDUCED, log entry 7). -/

/-- The instruction is complete and the next one is at `t`. -/
def CoreState.retireTo (s : CoreState c) (t : c.Value) : CoreState c := { s with pc := t, retired := s.retired + 1 }

/-- `halted <- 1` (rule R130). -/
def CoreState.setHalted (s : CoreState c) : CoreState c := { s with halted := true }

/-- The instruction is complete and the next one follows it. -/
def CoreState.retireNext (s : CoreState c) : CoreState c := s.retireTo (nextPc s.pc)

/-! How a meaning answers. -/

/-- The machine with the core `t`, its configuration and layer as they are: the answer of every meaning. -/
def State.answer (s : State) (t : CoreState s.config) : Host.Outcome State Fault Refusal :=
  .next { s with core := t }

/-! The Execute stage's answer and the one recovery action (rules R145, R160). -/

/-- How the Execute stage's part of one instruction ends: the latch to hand on with the state, or a fault raised
(rule R145: a `raise` stops the procedure at that line). -/
inductive ExOut (c : Config) where
  | pass (l : Latch c.xlen) (s : CoreState c)
  | raise (s : CoreState c)
deriving DecidableEq, Repr

/-- `Redirect(t)`: write `pc`, flush Decode and Fetch, insert the fetch bubble, re-enable Fetch (rule R160). -/
def CoreState.redirect (s : CoreState c) (t : c.Value) : CoreState c :=
  { s with
    pc := t
    lD := { s.lD with valid := false }
    lF := { s.lF with valid := false }
    redirectPending := true
    fetchEnabled := true }

end Sys2Proof.Machine
end

