-- ==== Sys2Proof/Machine/Operands.lean ====
section
/-! DEFINITION. What an instruction reads and writes (spec 44_hazard_forwarding.md rule R180), the one addressing mode
(41_load_store.md rule R110), the ALU functions (40_arithmetic_logic.md) and the control-transfer targets
(42_control_transfer.md). -/

namespace Sys2Proof.Machine

variable {n : Nat}

/-! Sources and destinations (rule R180). A list stands for the set of its members. -/

/-- The kind reads the register its field `rs1` names. -/
def readsRs1 : Kind → Bool
  | .add | .sub | .mul | .div | .and | .or | .xor | .addl | .subl | .load | .loadp | .store | .storep | .cmp
  | .cml | .jump | .jalr => true
  | .movc | .bz | .bnz | .bp | .bnp | .bn | .bnn | .nop | .halt | .invalid => false

/-- The kind reads the register its field `rs2` names. -/
def readsRs2 : Kind → Bool
  | .add | .sub | .mul | .div | .and | .or | .xor | .store | .storep | .cmp => true
  | .addl | .subl | .load | .loadp | .cml | .jump | .jalr | .movc | .bz | .bnz | .bp | .bnp | .bn | .bnn
  | .nop | .halt | .invalid => false

/-- `Sources`. -/
def sources (r : Record n) : List Reg :=
  (if readsRs1 r.kind then [r.rs1] else []) ++ (if readsRs2 r.kind then [r.rs2] else [])

/-- `WritesRd`. -/
def writesRd : Kind → Bool
  | .add | .sub | .mul | .div | .and | .or | .xor | .addl | .subl | .movc | .load | .loadp | .jalr => true
  | .store | .storep | .cmp | .cml | .jump | .bz | .bnz | .bp | .bnp | .bn | .bnn | .nop | .halt
  | .invalid => false

/-- `Base`: the post-incremented register of `LOADP` and `STOREP`. -/
def base? (r : Record n) : Option Reg :=
  match r.kind with
  | .loadp => some r.rs1
  | .storep => some r.rs2
  | _ => none

/-- `Dests`. -/
def dests (r : Record n) : List Reg :=
  (if writesRd r.kind then [r.rd] else []) ++ (base? r).toList

/-- `IsCondBranch` (00_scope.md rule R11). -/
def isCondBranch : Kind → Bool
  | .bz | .bnz | .bp | .bnp | .bn | .bnn => true
  | _ => false

/-- `LOAD` or `LOADP`: the kinds whose `result` is computed in Memory (rule R186). -/
def isLoad : Kind → Bool
  | .load | .loadp => true
  | _ => false

/-- `STORE` or `STOREP` (rule R144). -/
def isStore : Kind → Bool
  | .store | .storep => true
  | _ => false

/-! Values computed in Execute. -/

/-- The sum modulo `2^XLEN` of `ADD` and `ADDL` (rules R91, R98). -/
def aluAdd (a b : BitVec n) : BitVec n := a + b
/-- The difference modulo `2^XLEN` of `SUB` and `SUBL` (rules R92, R99). -/
def aluSub (a b : BitVec n) : BitVec n := a - b
/-- The low `XLEN` bits of the product (rule R93). -/
def aluMul (a b : BitVec n) : BitVec n := a * b
/-- The signed quotient rounded toward zero, narrowed to `XLEN` bits (rule R94). The divisor is not 0. -/
def aluDiv (a b : BitVec n) : BitVec n := BitVec.ofInt n (a.toInt.tdiv b.toInt)
/-- `AND` (rule R95). -/
def aluAnd (a b : BitVec n) : BitVec n := a &&& b
/-- `OR` (rule R96). -/
def aluOr (a b : BitVec n) : BitVec n := a ||| b
/-- `XOR` (rule R97). -/
def aluXor (a b : BitVec n) : BitVec n := a ^^^ b

/-- The effective address: base plus sign-extended immediate, modulo `2^XLEN`, a cell index (rule R110). -/
def effAddr (base imm : BitVec n) : BitVec n := base + imm

/-- The new base of a post-increment form: the old base, not the effective address, plus `POSTINC_STEP`
(rules R110 (e), R112). -/
def postInc (c : Config) (base : c.Value) : c.Value := base + BitVec.ofNat c.xlen c.postincStep

/-- The target of a taken conditional branch: its own address plus the offset (rule R120). -/
def branchTarget (p imm : BitVec n) : BitVec n := p + imm

/-- The absolute target of `JUMP` and `JALR` (rules R127, R128). -/
def jumpTarget (a imm : BitVec n) : BitVec n := a + imm

/-- The immediate of an instruction as the value a record of the core holds (rules R70, R73). -/
def immValue (c : Config) (imm : Int) : c.Value := BitVec.ofInt c.xlen imm

end Sys2Proof.Machine
end

