-- ==== Sys2Proof/Machine/ArithLogic.lean ====
section
/-! DEFINITION. Arithmetic, logic, move and compare instructions (spec 40_arithmetic_logic.md rules R90 to R103). For
each instruction `exec…` is its architectural effect, the pseudocode at the head of its rule (rule R250), and `ex…` is
its line of the Execute stage (43_pipeline_stages.md rule R145). -/

namespace Sys2Proof.Machine

variable {c : Config}

/-! What the family shares (rule R90). -/

/-- Write the result to `rd` and go on (rule R90 (d), (f)). -/
def CoreState.finishResult (s : CoreState c) (rd : Reg) (r : c.Value) : CoreState c := (s.setReg rd r).retireNext

/-- The same for a kind that sets the flags from its result (rules R25, R103). -/
def CoreState.finishFlagged (s : CoreState c) (rd : Reg) (r : c.Value) : CoreState c :=
  (s.setFlags (Flags.ofResult r)).finishResult rd r

/-- Only the flags are written (rules R101, R102). -/
def CoreState.finishCompare (s : CoreState c) (a b : c.Value) : CoreState c :=
  (s.setFlags (Flags.ofCompare a b)).retireNext

/-- Execute: a result without flags. -/
def exResult (r : c.Value) (l : Latch c.xlen) (s : CoreState c) : ExOut c := .pass { l with result := r } s

/-- Execute: a result with the flags set from it. -/
def exFlagged (r : c.Value) (l : Latch c.xlen) (s : CoreState c) : ExOut c :=
  .pass { l with result := r } (s.setFlags (Flags.ofResult r))

/-- Execute: the flags set from a comparison. -/
def exCompare (a b : c.Value) (l : Latch c.xlen) (s : CoreState c) : ExOut c :=
  .pass l (s.setFlags (Flags.ofCompare a b))

/-! Register-register arithmetic. -/

/-- `ADD rd, rs1, rs2` (rule R91). -/
def execAdd (rd rs1 rs2 : Reg) (s : State) : Host.Outcome State Fault Refusal :=
  s.answer (s.core.finishFlagged rd (aluAdd (s.core.reg rs1) (s.core.reg rs2)))

/-- `ADD` in Execute. -/
def exAdd (l : Latch c.xlen) (s : CoreState c) : ExOut c := exFlagged (aluAdd l.rs1Value l.rs2Value) l s

/-- `SUB rd, rs1, rs2` (rule R92). -/
def execSub (rd rs1 rs2 : Reg) (s : State) : Host.Outcome State Fault Refusal :=
  s.answer (s.core.finishFlagged rd (aluSub (s.core.reg rs1) (s.core.reg rs2)))

/-- `SUB` in Execute. -/
def exSub (l : Latch c.xlen) (s : CoreState c) : ExOut c := exFlagged (aluSub l.rs1Value l.rs2Value) l s

/-- `MUL rd, rs1, rs2` (rule R93). -/
def execMul (rd rs1 rs2 : Reg) (s : State) : Host.Outcome State Fault Refusal :=
  s.answer (s.core.finishFlagged rd (aluMul (s.core.reg rs1) (s.core.reg rs2)))

/-- `MUL` in Execute. -/
def exMul (l : Latch c.xlen) (s : CoreState c) : ExOut c := exFlagged (aluMul l.rs1Value l.rs2Value) l s

/-- `DIV rd, rs1, rs2` (rule R94): a zero divisor raises `DivisionByZero(pc, a)` and writes nothing else. -/
def execDiv (rd rs1 rs2 : Reg) (s : State) : Host.Outcome State Fault Refusal :=
  if s.core.reg rs2 = 0 then s.answer (s.core.raise .divisionByZero s.core.pc (s.core.reg rs1))
  else s.answer (s.core.finishFlagged rd (aluDiv (s.core.reg rs1) (s.core.reg rs2)))

/-- `DIV` in Execute. -/
def exDiv (l : Latch c.xlen) (s : CoreState c) : ExOut c :=
  if l.rs2Value = 0 then .raise (s.raise .divisionByZero l.pc l.rs1Value)
  else exFlagged (aluDiv l.rs1Value l.rs2Value) l s

/-! Register-register logic: no flag is written. -/

/-- `AND rd, rs1, rs2` (rule R95). -/
def execAnd (rd rs1 rs2 : Reg) (s : State) : Host.Outcome State Fault Refusal :=
  s.answer (s.core.finishResult rd (aluAnd (s.core.reg rs1) (s.core.reg rs2)))

/-- `AND` in Execute. -/
def exAnd (l : Latch c.xlen) (s : CoreState c) : ExOut c := exResult (aluAnd l.rs1Value l.rs2Value) l s

/-- `OR rd, rs1, rs2` (rule R96). -/
def execOr (rd rs1 rs2 : Reg) (s : State) : Host.Outcome State Fault Refusal :=
  s.answer (s.core.finishResult rd (aluOr (s.core.reg rs1) (s.core.reg rs2)))

/-- `OR` in Execute. -/
def exOr (l : Latch c.xlen) (s : CoreState c) : ExOut c := exResult (aluOr l.rs1Value l.rs2Value) l s

/-- `XOR rd, rs1, rs2` (rule R97). -/
def execXor (rd rs1 rs2 : Reg) (s : State) : Host.Outcome State Fault Refusal :=
  s.answer (s.core.finishResult rd (aluXor (s.core.reg rs1) (s.core.reg rs2)))

/-- `XOR` in Execute. -/
def exXor (l : Latch c.xlen) (s : CoreState c) : ExOut c := exResult (aluXor l.rs1Value l.rs2Value) l s

/-! Register-immediate arithmetic. -/

/-- `ADDL rd, rs1, #imm` (rule R98). -/
def execAddl (rd rs1 : Reg) (imm : Int) (s : State) : Host.Outcome State Fault Refusal :=
  s.answer (s.core.finishFlagged rd (aluAdd (s.core.reg rs1) (immValue s.config imm)))

/-- `ADDL` in Execute. -/
def exAddl (l : Latch c.xlen) (s : CoreState c) : ExOut c := exFlagged (aluAdd l.rs1Value l.imm) l s

/-- `SUBL rd, rs1, #imm` (rule R99). -/
def execSubl (rd rs1 : Reg) (imm : Int) (s : State) : Host.Outcome State Fault Refusal :=
  s.answer (s.core.finishFlagged rd (aluSub (s.core.reg rs1) (immValue s.config imm)))

/-- `SUBL` in Execute. -/
def exSubl (l : Latch c.xlen) (s : CoreState c) : ExOut c := exFlagged (aluSub l.rs1Value l.imm) l s

/-! Move constant and compare. -/

/-- `MOVC rd, #imm` (rule R100): no flag is written. -/
def execMovc (rd : Reg) (imm : Int) (s : State) : Host.Outcome State Fault Refusal :=
  s.answer (s.core.finishResult rd (immValue s.config imm))

/-- `MOVC` in Execute. -/
def exMovc (l : Latch c.xlen) (s : CoreState c) : ExOut c := exResult l.imm l s

/-- `CMP rs1, rs2` (rule R101). -/
def execCmp (rs1 rs2 : Reg) (s : State) : Host.Outcome State Fault Refusal :=
  s.answer (s.core.finishCompare (s.core.reg rs1) (s.core.reg rs2))

/-- `CMP` in Execute. -/
def exCmp (l : Latch c.xlen) (s : CoreState c) : ExOut c := exCompare l.rs1Value l.rs2Value l s

/-- `CML rs1, #imm` (rule R102). -/
def execCml (rs1 : Reg) (imm : Int) (s : State) : Host.Outcome State Fault Refusal :=
  s.answer (s.core.finishCompare (s.core.reg rs1) (immValue s.config imm))

/-- `CML` in Execute. -/
def exCml (l : Latch c.xlen) (s : CoreState c) : ExOut c := exCompare l.rs1Value l.imm l s

end Sys2Proof.Machine
end

