-- ==== Sys2Proof/Machine/Btb.lean ====
section
/-! DEFINITION. The branch-target buffer and its 2-bit predictor (spec 45_branch_predictor.md rules R200 to R206). -/

namespace Sys2Proof.Machine

variable {c : Config}

/-- The slots in scan order. -/
def slots : List Slot := [0, 1, 2, 3]

/-- `Lookup(a)`: exact match on all bits, a linear scan (rule R201). -/
def CoreState.lookup (s : CoreState c) (a : c.Value) : Option Slot :=
  slots.find? fun i => s.btb[i.val].valid && decide (s.btb[i.val].tag = a)

/-- `PredictTaken(i)` (rule R202). -/
def CoreState.predictTaken (s : CoreState c) (i : Slot) : Bool := s.btb[i.val].h0

/-- `Seed(kind)`: `BNZ` and `BP` start strongly taken, every other branch strongly not taken (rule R205). -/
def seed : Kind → Bool × Bool
  | .bnz | .bp => (true, true)
  | _ => (false, false)

/-- The slot an allocation takes: the first invalid one, and slot 0 when the table is full (rule R204). -/
def CoreState.victim (s : CoreState c) : Slot := (slots.find? fun i => !s.btb[i.val].valid).getD 0

/-- `Allocate(a, kind, t)`: the table with the new entry (rule R204). The slot is `victim`. -/
def CoreState.allocate (s : CoreState c) (a : c.Value) (k : Kind) (t : c.Value) : CoreState c :=
  { s with btb := s.btb.set s.victim.val ⟨true, a, (seed k).1, (seed k).2, t⟩ }

/-- The next history state (rule R206): the four explicit cases. -/
def nextHistory (h0 h1 taken : Bool) : Bool × Bool :=
  match h0, h1, taken with
  | false, false, true => (false, true)
  | false, false, false => (false, false)
  | false, true, true => (true, false)
  | false, true, false => (false, true)
  | true, false, true => (true, true)
  | true, false, false => (false, true)
  | true, true, true => (true, true)
  | true, true, false => (true, false)

/-- An entry after one outcome (rule R206). -/
def BtbEntry.train (e : BtbEntry c.xlen) (taken : Bool) : BtbEntry c.xlen :=
  { e with h0 := (nextHistory e.h0 e.h1 taken).1, h1 := (nextHistory e.h0 e.h1 taken).2 }

/-- `UpdateHistory(i, taken)` (rule R206). -/
def CoreState.updateHistory (s : CoreState c) (i : Slot) (taken : Bool) : CoreState c :=
  { s with btb := s.btb.set i.val (s.btb[i.val].train taken) }

end Sys2Proof.Machine
end

