-- ==== Sys2Proof/Machine/Control.lean ====
section
/-! DEFINITION. Control transfer, `NOP`, `HALT` and `INVALID` (spec 42_control_transfer.md rules R120 to R133).
`exec…` is the architectural effect, `ex…` the line of the Execute stage (43_pipeline_stages.md rule R145) with the
branch resolution of 45_branch_predictor.md rule R207. -/

namespace Sys2Proof.Machine

variable {c : Config}

/-! What the transfers share. -/

/-- A transfer that is performed: to `t`, or `MisalignedTarget(pc, t)` (rules R120, R131). There is no delay
slot (rule R132). -/
def CoreState.transfer (s : CoreState c) (t : c.Value) : CoreState c :=
  if aligned t then s.retireTo t else s.raise .misalignedTarget s.pc t

/-- A conditional branch with outcome `taken` (rule R120). -/
def CoreState.branch (s : CoreState c) (taken : Bool) (imm : c.Value) : CoreState c :=
  if taken then s.transfer (branchTarget s.pc imm) else s.retireNext

/-- A conditional branch in Execute (rule R207): history update, then the alignment test, then the redirect where the
fetch path was wrong. -/
def exBranch (taken : Bool) (l : Latch c.xlen) (s : CoreState c) : ExOut c :=
  let s1 := s.updateHistory l.btbIdx taken
  let t := branchTarget l.pc l.imm
  if taken && !aligned t then .raise (s1.raise .misalignedTarget l.pc t)
  else if taken && !l.predTaken then .pass l (s1.redirect t)
  else if !taken && l.predTaken then .pass l (s1.redirect (nextPc l.pc))
  else .pass l s1

/-! Conditional branches. -/

/-- `BZ #imm` (rule R121). -/
def execBz (imm : Int) (s : State) : Host.Outcome State Fault Refusal :=
  s.answer (s.core.branch (condZ s.core.flags) (immValue s.config imm))

/-- `BZ` in Execute. -/
def exBz (l : Latch c.xlen) (s : CoreState c) : ExOut c := exBranch (condZ s.flags) l s

/-- `BNZ #imm` (rule R122). -/
def execBnz (imm : Int) (s : State) : Host.Outcome State Fault Refusal :=
  s.answer (s.core.branch (condNZ s.core.flags) (immValue s.config imm))

/-- `BNZ` in Execute. -/
def exBnz (l : Latch c.xlen) (s : CoreState c) : ExOut c := exBranch (condNZ s.flags) l s

/-- `BP #imm` (rule R123). -/
def execBp (imm : Int) (s : State) : Host.Outcome State Fault Refusal :=
  s.answer (s.core.branch (condP s.core.flags) (immValue s.config imm))

/-- `BP` in Execute. -/
def exBp (l : Latch c.xlen) (s : CoreState c) : ExOut c := exBranch (condP s.flags) l s

/-- `BNP #imm` (rule R124). -/
def execBnp (imm : Int) (s : State) : Host.Outcome State Fault Refusal :=
  s.answer (s.core.branch (condNP s.core.flags) (immValue s.config imm))

/-- `BNP` in Execute. -/
def exBnp (l : Latch c.xlen) (s : CoreState c) : ExOut c := exBranch (condNP s.flags) l s

/-- `BN #imm` (rule R125). -/
def execBn (imm : Int) (s : State) : Host.Outcome State Fault Refusal :=
  s.answer (s.core.branch (condN s.core.flags) (immValue s.config imm))

/-- `BN` in Execute. -/
def exBn (l : Latch c.xlen) (s : CoreState c) : ExOut c := exBranch (condN s.flags) l s

/-- `BNN #imm` (rule R126). -/
def execBnn (imm : Int) (s : State) : Host.Outcome State Fault Refusal :=
  s.answer (s.core.branch (condNN s.core.flags) (immValue s.config imm))

/-- `BNN` in Execute. -/
def exBnn (l : Latch c.xlen) (s : CoreState c) : ExOut c := exBranch (condNN s.flags) l s

/-! Unconditional jumps: the predictor is not used (rule R210). -/

/-- `JUMP rs1, #imm` (rule R127). -/
def execJump (rs1 : Reg) (imm : Int) (s : State) : Host.Outcome State Fault Refusal :=
  s.answer (s.core.transfer (jumpTarget (s.core.reg rs1) (immValue s.config imm)))

/-- `JUMP` in Execute. -/
def exJump (l : Latch c.xlen) (s : CoreState c) : ExOut c :=
  let t := jumpTarget l.rs1Value l.imm
  if aligned t then .pass l (s.redirect t) else .raise (s.raise .misalignedTarget l.pc t)

/-- `JALR rd, rs1, #imm` (rule R128): the target is read before the link is written; a misaligned target writes no
link. -/
def execJalr (rd rs1 : Reg) (imm : Int) (s : State) : Host.Outcome State Fault Refusal :=
  let t := jumpTarget (s.core.reg rs1) (immValue s.config imm)
  if aligned t then s.answer ((s.core.setReg rd (nextPc s.core.pc)).retireTo t)
  else s.answer (s.core.raise .misalignedTarget s.core.pc t)

/-- `JALR` in Execute. -/
def exJalr (l : Latch c.xlen) (s : CoreState c) : ExOut c :=
  let t := jumpTarget l.rs1Value l.imm
  if aligned t then .pass { l with result := nextPc l.pc } (s.redirect t)
  else .raise (s.raise .misalignedTarget l.pc t)

/-! `NOP`, `HALT`, `INVALID`. -/

/-- `NOP` (rule R129). -/
def execNop (s : State) : Host.Outcome State Fault Refusal := s.answer s.core.retireNext

/-- `NOP` in Execute. -/
def exNop (l : Latch c.xlen) (s : CoreState c) : ExOut c := .pass l s

/-- `HALT` (rule R130): no later instruction executes. `pc` holds the address after it (rule R234). -/
def execHalt (s : State) : Host.Outcome State Fault Refusal := s.answer s.core.retireNext.setHalted

/-- `HALT` in Execute: it is passed on, Writeback sets `halted`. -/
def exHalt (l : Latch c.xlen) (s : CoreState c) : ExOut c := .pass l s

/-- An `INVALID` instruction of the sequential machine (rule R133). It is no instruction of the table. -/
def raiseInvalid (s : State) : Host.Outcome State Fault Refusal := s.answer (s.core.raise .invalidOpcode s.core.pc 0)

/-- `INVALID` in Execute (rule R133). -/
def exInvalid (l : Latch c.xlen) (s : CoreState c) : ExOut c := .raise (s.raise .invalidOpcode l.pc 0)

end Sys2Proof.Machine
end

