-- ==== Sys2Proof/Machine/Hazard.lean ====
section
/-! DEFINITION. The hazard-resolution unit (spec 44_hazard_forwarding.md rules R181 to R190): when Decode must wait,
and where an operand's value comes from. Decode calls it after Writeback, Memory and Execute of the same cycle (rule
R184). -/

namespace Sys2Proof.Machine

variable {c : Config}

/-- `Produces(L, r)` (rule R185). -/
def Latch.produces (l : Latch c.xlen) (r : Reg) : Bool := l.valid && decide (r ∈ dests l.toRecord)

/-- `ProducedValue(L, r)` (rule R185): the result where `r` is the destination `rd`, else the incremented base. -/
def Latch.producedValue (l : Latch c.xlen) (r : Reg) : c.Value :=
  if writesRd l.kind && decide (l.rd = r) then l.result else l.baseNew

/-- `OperandValue(r)`: from the register file under `STALL_ONLY` (rule R190), and under `FORWARDING` from the
youngest producer in flight, else from the register file (rules R185, R187). -/
def CoreState.operandValue (s : CoreState c) (r : Reg) : c.Value :=
  match c.strategy with
  | .stallOnly => s.reg r
  | .forwarding =>
    if s.lMEM.produces r then s.lMEM.producedValue r
    else if s.lWB.produces r then s.lWB.producedValue r
    else s.reg r

/-- `MustStall(L)`: a busy source or destination under `STALL_ONLY` (rule R181); under `FORWARDING` a load that
has not been through Memory and whose `rd` is a source (rule R186). -/
def CoreState.mustStall (s : CoreState c) (l : Latch c.xlen) : Bool :=
  match c.strategy with
  | .stallOnly => (sources l.toRecord ++ dests l.toRecord).any s.busyBit
  | .forwarding => s.lMEM.valid && isLoad s.lMEM.kind && decide (s.lMEM.rd ∈ sources l.toRecord)

/-- `L` with its operands captured (rules R146, R188): a value field is written when the kind reads the register of
that field, and keeps what it held when the kind does not use it (rule R32; log entry 12). -/
def CoreState.captureOperands (s : CoreState c) (l : Latch c.xlen) : Latch c.xlen :=
  { l with
    rs1Value := if readsRs1 l.kind then s.operandValue l.rs1 else l.rs1Value
    rs2Value := if readsRs2 l.kind then s.operandValue l.rs2 else l.rs2Value }

/-- `busy[d] <- b` for every `d` of a list of destinations (rule R182). -/
def CoreState.setBusyAll (s : CoreState c) (ds : List Reg) (b : Bool) : CoreState c :=
  ds.foldl (fun t d => t.setBusy d b) s

end Sys2Proof.Machine
end

