-- ==== Sys2Proof/Machine/LoadStore.lean ====
section
/-! DEFINITION. Load and store instructions (spec 41_load_store.md rules R110 to R114). `exec…` is the architectural
effect, `ex…` the line of the Execute stage (43_pipeline_stages.md rule R145); the access itself is the Memory stage's
(rule R144). -/

namespace Sys2Proof.Machine

variable {c : Config}

/-- The fault of an access outside the data memory: nothing is read or written (rules R56, R224). -/
def CoreState.raiseMemory (s : CoreState c) (ea : c.Value) : CoreState c := s.raise .memoryFault s.pc ea

/-- `LOAD rd, rs1, #imm` (rule R111). -/
def execLoad (rd rs1 : Reg) (imm : Int) (s : State) : Host.Outcome State Fault Refusal :=
  let ea := effAddr (s.core.reg rs1) (immValue s.config imm)
  match s.core.memRead ea with
  | none => s.answer (s.core.raiseMemory ea)
  | some v => s.answer (s.core.setReg rd v).retireNext

/-- `LOAD` in Execute. -/
def exLoad (l : Latch c.xlen) (s : CoreState c) : ExOut c := .pass { l with memAddr := effAddr l.rs1Value l.imm } s

/-- `LOADP rd, rs1, #imm` (rule R112): the base is written first, the loaded value last. -/
def execLoadp (rd rs1 : Reg) (imm : Int) (s : State) : Host.Outcome State Fault Refusal :=
  let old := s.core.reg rs1
  let ea := effAddr old (immValue s.config imm)
  match s.core.memRead ea with
  | none => s.answer (s.core.raiseMemory ea)
  | some v => s.answer ((s.core.setReg rs1 (postInc s.config old)).setReg rd v).retireNext

/-- `LOADP` in Execute. -/
def exLoadp (l : Latch c.xlen) (s : CoreState c) : ExOut c :=
  .pass { l with memAddr := effAddr l.rs1Value l.imm, baseNew := postInc c l.rs1Value } s

/-- `STORE rs1, rs2, #imm` (rule R113): `rs1` is the value, `rs2` the base. -/
def execStore (rs1 rs2 : Reg) (imm : Int) (s : State) : Host.Outcome State Fault Refusal :=
  let ea := effAddr (s.core.reg rs2) (immValue s.config imm)
  match s.core.memWrite ea (s.core.reg rs1) with
  | none => s.answer (s.core.raiseMemory ea)
  | some t => s.answer t.retireNext

/-- `STORE` in Execute. -/
def exStore (l : Latch c.xlen) (s : CoreState c) : ExOut c := .pass { l with memAddr := effAddr l.rs2Value l.imm } s

/-- `STOREP rs1, rs2, #imm` (rule R114): the value stored is read before the base is written. -/
def execStorep (rs1 rs2 : Reg) (imm : Int) (s : State) : Host.Outcome State Fault Refusal :=
  let old := s.core.reg rs2
  let ea := effAddr old (immValue s.config imm)
  match s.core.memWrite ea (s.core.reg rs1) with
  | none => s.answer (s.core.raiseMemory ea)
  | some t => s.answer (t.setReg rs2 (postInc s.config old)).retireNext

/-- `STOREP` in Execute. -/
def exStorep (l : Latch c.xlen) (s : CoreState c) : ExOut c :=
  .pass { l with memAddr := effAddr l.rs2Value l.imm, baseNew := postInc c l.rs2Value } s

end Sys2Proof.Machine
end

