-- ==== Sys2Proof/Machine/Pipeline.lean ====
section
/-! DEFINITION. The five stages and the cycle procedure `Tick()` (spec 43_pipeline_stages.md rules R140 to R147). The
stages are evaluated Writeback, Memory, Execute, Decode, Fetch, each on the state the earlier ones of the same cycle
left (rule R141). -/

namespace Sys2Proof.Machine

variable {c : Config}

/-! Writeback (rule R143). -/

/-- Commit one destination: the register is written and its busy bit cleared (rules R143, R183). -/
def CoreState.commitReg (s : CoreState c) (r : Reg) (v : c.Value) : CoreState c := (s.setReg r v).setBusy r false

/-- The updated base register of `LOADP` and `STOREP`, written first. -/
def CoreState.commitBase (s : CoreState c) (l : Latch c.xlen) : CoreState c :=
  match base? l.toRecord with
  | some b => s.commitReg b l.baseNew
  | none => s

/-- The ordinary destination register, written second. -/
def CoreState.commitRd (s : CoreState c) (l : Latch c.xlen) : CoreState c :=
  if writesRd l.kind then s.commitReg l.rd l.result else s

/-- The instruction of `L_WB` is counted, `HALT` stops the machine, the latch is cleared. -/
def CoreState.retireLatch (s : CoreState c) (l : Latch c.xlen) : CoreState c :=
  { s with
    retired := s.retired + 1
    halted := s.halted || decide (l.kind = .halt)
    lWB := { l with valid := false } }

/-- `WB()`. -/
def wbStage (s : CoreState c) : CoreState c :=
  if s.lWB.valid then ((s.commitBase s.lWB).commitRd s.lWB).retireLatch s.lWB else s

/-! Memory (rule R144). -/

/-- The latch is handed on to Writeback. -/
def CoreState.passToWB (s : CoreState c) (l : Latch c.xlen) : CoreState c :=
  { s with lWB := { l with valid := true }, lMEM := { l with valid := false } }

/-- `MEM()`. A failing access raises `MemoryFault(L_MEM.pc, L_MEM.mem_addr)` and hands nothing on. -/
def memStage (s : CoreState c) : CoreState c :=
  if s.lMEM.valid then
    if isLoad s.lMEM.kind then
      match s.memRead s.lMEM.memAddr with
      | none => s.raise .memoryFault s.lMEM.pc s.lMEM.memAddr
      | some v => s.passToWB { s.lMEM with result := v }
    else if isStore s.lMEM.kind then
      match s.memWrite s.lMEM.memAddr s.lMEM.rs1Value with
      | none => s.raise .memoryFault s.lMEM.pc s.lMEM.memAddr
      | some t => t.passToWB s.lMEM
    else s.passToWB s.lMEM
  else s

/-! Execute (rule R145). -/

/-- The `case` of `EX()`: one arm a kind. -/
def exKind (l : Latch c.xlen) (s : CoreState c) : ExOut c :=
  match l.kind with
  | .invalid => exInvalid l s
  | .add => exAdd l s
  | .sub => exSub l s
  | .mul => exMul l s
  | .div => exDiv l s
  | .addl => exAddl l s
  | .subl => exSubl l s
  | .and => exAnd l s
  | .or => exOr l s
  | .xor => exXor l s
  | .movc => exMovc l s
  | .cmp => exCmp l s
  | .cml => exCml l s
  | .load => exLoad l s
  | .loadp => exLoadp l s
  | .store => exStore l s
  | .storep => exStorep l s
  | .bz => exBz l s
  | .bnz => exBnz l s
  | .bp => exBp l s
  | .bnp => exBnp l s
  | .bn => exBn l s
  | .bnn => exBnn l s
  | .jump => exJump l s
  | .jalr => exJalr l s
  | .nop => exNop l s
  | .halt => exHalt l s

/-- The latch is handed on to Memory. -/
def CoreState.passToMEM (s : CoreState c) (l : Latch c.xlen) : CoreState c :=
  { s with lMEM := { l with valid := true }, lEX := { l with valid := false } }

/-- `EX()`. After a `raise` the latch stays as it is. -/
def exStage (s : CoreState c) : CoreState c :=
  if s.lEX.valid then
    match exKind s.lEX s with
    | .raise t => t
    | .pass l t => t.passToMEM l
  else s

/-! Decode/Register-Read (rule R146). -/

/-- `L_D <- l`. -/
def CoreState.setLD (s : CoreState c) (l : Latch c.xlen) : CoreState c := { s with lD := l }

/-- The `stall` signal (rule R29). -/
def CoreState.setStall (s : CoreState c) (b : Bool) : CoreState c := { s with stall := b }

/-- The allocation of a conditional branch that missed in Fetch: the table, and the slot in `L_D`. It comes before the
hazard check and does not change `btb_hit`. -/
def CoreState.allocateBranch (s : CoreState c) : CoreState c :=
  if isCondBranch s.lD.kind && !s.lD.btbHit then
    (s.allocate s.lD.pc s.lD.kind (branchTarget s.lD.pc s.lD.imm)).setLD { s.lD with btbIdx := s.victim }
  else s

/-- The latch is handed on to Execute; `HALT` disables fetching. -/
def CoreState.passToEX (s : CoreState c) (l : Latch c.xlen) : CoreState c :=
  { s with
    fetchEnabled := s.fetchEnabled && decide (l.kind ≠ .halt)
    lEX := { l with valid := true }
    lD := { l with valid := false } }

/-- The destinations of an issuing instruction marked busy, under `STALL_ONLY` only (rule R182; log entry 10). -/
def CoreState.markBusy (s : CoreState c) (l : Latch c.xlen) : CoreState c :=
  match c.strategy with
  | .stallOnly => s.setBusyAll (dests l.toRecord) true
  | .forwarding => s

/-- Issue: operands captured, destinations marked busy, the latch handed on. -/
def CoreState.issue (s : CoreState c) : CoreState c := (s.markBusy s.lD).passToEX (s.captureOperands s.lD)

/-- `DRF()`. A stalled instruction changes nothing but `stall`. -/
def drfStage (s : CoreState c) : CoreState c :=
  let s0 := s.setStall false
  if s0.lD.valid then
    let s1 := s0.allocateBranch
    if s1.mustStall s1.lD then s1.setStall true else s1.issue
  else s0

/-! Fetch (rule R147). -/

/-- What Fetch reads into `L_F` at address `a`: the record, `pc`, and every other field 0. -/
def Latch.fetched (a : c.Value) (r : Record c.xlen) : Latch c.xlen :=
  { Latch.empty with toRecord := r, valid := true, pc := a }

/-- Fetch reads nothing. -/
def CoreState.fetchIdle (s : CoreState c) : CoreState c := { s with lF := { s.lF with valid := false } }

/-- `L_F <- l`. -/
def CoreState.setLF (s : CoreState c) (l : Latch c.xlen) : CoreState c := { s with lF := l }

/-- The redirect bubble is consumed. -/
def CoreState.clearBubble (s : CoreState c) : CoreState c := { s with redirectPending := false }

/-- `L_F <- l`, `L_D <- l`, `pc <- t`. -/
def CoreState.passToD (s : CoreState c) (l : Latch c.xlen) (t : c.Value) : CoreState c :=
  { s with lF := l, lD := l, pc := t }

/-- Pass the fetched latch on to Decode, following the prediction of the table (rule R203). -/
def CoreState.fetchPass (s : CoreState c) (l : Latch c.xlen) : CoreState c :=
  match s.lookup s.pc with
  | some i =>
    s.passToD { l with btbHit := true, btbIdx := i, predTaken := s.predictTaken i }
      (if s.predictTaken i then s.btb[i.val].target else nextPc s.pc)
  | none => s.passToD l (nextPc s.pc)

/-- `FETCH()`. The redirect bubble comes first; a stalled cycle reads the entry into `L_F` only. -/
def fetchStage (s : CoreState c) : CoreState c :=
  if s.redirectPending then s.clearBubble.fetchIdle
  else if !s.fetchEnabled then s.fetchIdle
  else
    match s.entryAt s.pc with
    | none => s.fetchIdle
    | some e =>
      let l := Latch.fetched s.pc (e.toRecord c.immBits)
      if s.stall then s.setLF l else s.fetchPass l

/-! The cycle procedure (rule R141). -/

/-- The end of an evaluated tick (rule R30). -/
def CoreState.countCycle (s : CoreState c) : CoreState c := { s with cycles := s.cycles + 1 }

/-- `Tick()`, one clock cycle: a stopped machine changes nothing; the tick in which `HALT` retires ends after
Writeback, a faulting tick at the stage that raised. -/
def tick (s : CoreState c) : CoreState c :=
  if s.stopped then s
  else
    let s1 := wbStage s
    if s1.halted then s1.countCycle
    else
      let s2 := memStage s1
      if s2.fault.kind ≠ .none then s2.countCycle
      else
        let s3 := exStage s2
        if s3.fault.kind ≠ .none then s3.countCycle
        else (fetchStage (drfStage s3)).countCycle

end Sys2Proof.Machine
end

