-- ==== Sys2Proof/Machine/Sequential.lean ====
section
/-! DEFINITION. The sequential machine (spec 70_reset_and_hazards.md rule R250): one instruction a step. -/

namespace Sys2Proof.Machine

/-- One step of the sequential machine: the instruction at `pc` has its architectural effect or raises its fault; at
a `pc` that is not fetchable the machine idles; a stopped machine stays as it is (log entry 13). -/
def seqStep (s : State) : Host.Outcome State Fault Refusal :=
  if s.core.stopped then .next s
  else
    match s.core.entryAt s.core.pc with
    | none => .next s
    | some e =>
      match (e.toRecord s.config.immBits).instr? with
      | some i => exec i s
      | none => raiseInvalid s

end Sys2Proof.Machine
end

