-- ==== Sys2Proof/Machine/Step.lean ====
section
/-! DEFINITION. One step of the machine, and the placing of an instruction where the next step runs it. -/

namespace Sys2Proof.Machine

/-- One step: a clock cycle of the pipeline (rules R6, R141), or one instruction of the sequential machine (rule R250)
where the state's static field `layer` says so (rule R251, log entry 1). A core that may not be started is
refused (rules R8, R242). -/
def step (s : State) : Host.Outcome State Fault Refusal :=
  match s.core.bootProblem with
  | some r => .refused r
  | none =>
    match s.layer with
    | .pipeline => s.answer (tick s.core)
    | .sequential => seqStep s

/-- `s` with the instruction whose bits are `w` stored where the next step fetches and runs it: the entry at `pc`, or
entry 0 of a new program with `pc` at it where `pc` addresses no entry; the machine not stopped; the layer the one
whose step is an instruction (log entries 1 and 6). -/
def State.withFetchWord (s : State) (nbits w : Nat) : State :=
  let e := Entry.word (BitVec.ofNat 32 (w % 2 ^ nbits))
  let u := { s.core with halted := false, fault := ⟨.none, 0, 0⟩ }
  if s.core.fetchable s.core.pc then
    { s with layer := .sequential, core := { u with imem := u.imem.set (entryIndex u.pc) e } }
  else { s with layer := .sequential, core := { u with imem := [e], pc := s.config.entryPoint } }

end Sys2Proof.Machine
end

