-- ==== Sys2Proof/Machine/Driver.lean ====
section
/-! DEFINITION. The outside of the core: the loader and reset (spec 00_scope.md rules R7, R8), the driver
(43_pipeline_stages.md rule R142), the ports (rule R7) and the observation port (60_exceptions.md rule R232). -/

namespace Sys2Proof.Machine

variable {c : Config}

/-- `reset` asserted: every piece of state takes its reset value, the loaded program stays (rules R7, R240), and
`STRATEGY` is sampled (rule R4). The layer, the model's own field, stays. -/
def State.assertReset (s : State) (strategy : Strategy) : State where
  config := { s.config with strategy := strategy }
  layer := s.layer
  core := CoreState.resetWith { s.config with strategy := strategy } s.core.imem

/-- The machine right after reset with the parameters `c` and a loaded program. -/
def State.boot (c : Config) (program : List (Entry c.xlen)) : State where
  config := c
  layer := .pipeline
  core := CoreState.resetWith c program

/-- `initialize(source)`: the program is loaded and reset is asserted and released; nothing is constructed where the
core is not started (rules R8, R242). -/
def startCore (c : Config) (program : List (Entry c.xlen)) : Option State :=
  match (CoreState.resetWith c program).bootProblem with
  | some _ => none
  | none => some (State.boot c program)

/-- The driver's loop: tick while the machine runs and the limit is not reached, at most `fuel` times. -/
def driveTicks : Nat → c.Counter → CoreState c → CoreState c
  | 0, _, s => s
  | fuel + 1, limit, s =>
    if !s.stopped && decide (s.cycles < limit) then driveTicks fuel limit (tick s) else s

/-- `run(MAX_CYCLES)` (rule R142). Each tick of a running machine counts one cycle, so the fuel is never what ends
the loop. A later run with a larger limit goes on from the same state (log entry 14). -/
def run (maxCycles : c.Counter) (s : CoreState c) : CoreState c :=
  driveTicks (maxCycles.toNat - s.cycles.toNat) maxCycles s

/-- What the driver reports at the end of a run (rules R8, R142). -/
structure Report (c : Config) where
  cycles : c.Counter
  retired : c.Counter
  fault : FaultReg c.xlen
deriving DecidableEq, Repr

/-- The report of a state. -/
def CoreState.report (s : CoreState c) : Report c := ⟨s.cycles, s.retired, s.fault⟩

/-- The three ends of a run, side by side (rule R235). -/
inductive RunEnd where
  | halt
  | fault
  | cycleLimit
deriving DecidableEq, Repr

/-- Which end of a run a state is. -/
def CoreState.runEnd (s : CoreState c) : RunEnd :=
  if s.halted then .halt else if s.fault.kind ≠ .none then .fault else .cycleLimit

/-! The ports of rule R7. -/

/-- The data-memory port in one cycle (rules R7, R55). -/
structure DataPort (c : Config) where
  /-- An access is made. -/
  enable : Bool
  address : c.Value
  writeEnable : Bool
  writeData : c.Value
deriving DecidableEq, Repr

/-- What the Memory stage drives on the data-memory port in the coming cycle (rules R55, R56; log entry 15). -/
def CoreState.dataPort (s : CoreState c) : DataPort c where
  enable := s.lMEM.valid && (isLoad s.lMEM.kind || isStore s.lMEM.kind) && inMemory s.lMEM.memAddr
  address := s.lMEM.memAddr
  writeEnable := s.lMEM.valid && isStore s.lMEM.kind && inMemory s.lMEM.memAddr
  writeData := s.lMEM.rs1Value

/-- The outputs of the block (rule R7). -/
structure Outputs (c : Config) where
  /-- The address on the instruction-store read port. -/
  fetchAddress : c.Value
  data : DataPort c
  halted : Bool
  fault : FaultReg c.xlen
  cycles : c.Counter
  retired : c.Counter
deriving DecidableEq, Repr

/-- The outputs in a state. -/
def CoreState.outputs (s : CoreState c) : Outputs c := ⟨s.pc, s.dataPort, s.halted, s.fault, s.cycles, s.retired⟩

/-- The snapshot of the observation port (rule R232). The canonical data memory lists exactly "all nonzero
data-memory cells". -/
structure Snapshot (c : Config) where
  x : Vector c.Value 32
  pc : c.Value
  flags : Flags
  cells : List (Nat × c.Value)
  lF : Latch c.xlen
  lD : Latch c.xlen
  lEX : Latch c.xlen
  lMEM : Latch c.xlen
  lWB : Latch c.xlen
  btb : Vector (BtbEntry c.xlen) 4
  busy : Vector Bool 32
  redirectPending : Bool
  halted : Bool
  fetchEnabled : Bool
  stall : Bool
  cycles : c.Counter
  retired : c.Counter
  fault : FaultReg c.xlen
deriving DecidableEq, Repr

/-- The observation port: a read-only view between two ticks (rule R232). -/
def CoreState.observe (s : CoreState c) : Snapshot c where
  x := s.x
  pc := s.pc
  flags := s.flags
  cells := s.dmem
  lF := s.lF
  lD := s.lD
  lEX := s.lEX
  lMEM := s.lMEM
  lWB := s.lWB
  btb := s.btb
  busy := s.busy
  redirectPending := s.redirectPending
  halted := s.halted
  fetchEnabled := s.fetchEnabled
  stall := s.stall
  cycles := s.cycles
  retired := s.retired
  fault := s.fault

end Sys2Proof.Machine
end

