-- ==== Sys2Proof/Safety.lean ====
section
/-! DEFINITION. The terms the statements use: the invariants of the spec (10_state.md, 44_hazard_forwarding.md rule
R191, 45_branch_predictor.md rule R209), what an instruction may change, and the sequential state a pipeline state
stands for (60_exceptions.md rule R230, 70_reset_and_hazards.md rule R250). -/

namespace Sys2Proof.Machine

variable {c : Config}

/-! Runs. -/

/-- The core as a machine that is run by the description `l`. -/
def CoreState.onLayer (s : CoreState c) (l : Layer) : State := ⟨c, l, s⟩

/-- `n` steps; nothing where a step is refused. -/
def stepN : Nat → State → Option State
  | 0, s => some s
  | n + 1, s =>
    match step s with
    | .next t => stepN n t
    | .fault _ => none
    | .refused _ => none

/-! Invariants of both layers. -/

/-- The data memory is in canonical form and lists only cells that exist (rules R53, R56). -/
def CoreState.memoryOk (s : CoreState c) : Bool :=
  memoryWf s.dmem && s.dmem.all fun e => decide (e.1 < c.dmemSize)

/-- The flags are "mutually exclusive" (rule R24). -/
def Flags.exclusive (f : Flags) : Prop :=
  ¬(f.z = true ∧ f.p = true) ∧ ¬(f.z = true ∧ f.n = true) ∧ ¬(f.p = true ∧ f.n = true)

/-- Exactly one flag is set (rule R24: after the first flag-setting instruction). -/
def Flags.exactlyOne (f : Flags) : Prop :=
  (f.z = true ∧ f.p = false ∧ f.n = false) ∨ (f.z = false ∧ f.p = true ∧ f.n = false) ∨
    (f.z = false ∧ f.p = false ∧ f.n = true)

/-! What an instruction of the sequential machine leaves alone. -/

/-- Every cell of the data memory reads as before. -/
def SameCells (s t : CoreState c) : Prop := ∀ a : Nat, readCell t.dmem a = readCell s.dmem a

/-- Every register but those of `ds` holds what it held. -/
def SameRegsBut (ds : List Reg) (s t : CoreState c) : Prop := ∀ r : Reg, r ∉ ds → t.reg r = s.reg r

/-- Everything that is neither a register, a flag, the data memory, `pc`, `retired`, `halted` nor the fault register
is as it was: the instruction store, the latches, the branch-target buffer, the scoreboard, the other control bits and
the cycle counter. -/
def SameRest (s t : CoreState c) : Prop :=
  t.imem = s.imem ∧ t.lF = s.lF ∧ t.lD = s.lD ∧ t.lEX = s.lEX ∧
    t.lMEM = s.lMEM ∧ t.lWB = s.lWB ∧ t.btb = s.btb ∧ t.busy = s.busy ∧
    t.redirectPending = s.redirectPending ∧ t.fetchEnabled = s.fetchEnabled ∧ t.stall = s.stall ∧
    t.cycles = s.cycles

/-- The instruction completed and the next one is at `a`: no fault, not halted by it, counted once as retired. -/
def CompletedTo (a : c.Value) (s t : CoreState c) : Prop :=
  t.pc = a ∧ t.retired = s.retired + 1 ∧ t.halted = s.halted ∧ t.fault = s.fault

/-- Only the fault register is written (rule R221). -/
def FaultRecorded (k : FaultKind) (p info : c.Value) (s t : CoreState c) : Prop :=
  t.fault = ⟨k, p, info⟩ ∧ t.x = s.x ∧ t.pc = s.pc ∧ t.flags = s.flags ∧ t.dmem = s.dmem ∧
    t.retired = s.retired ∧ t.halted = s.halted ∧ SameRest s t

/-- `f` is the sign of the integer `v` (rules R25, R26). -/
def Flags.tells (f : Flags) (v : Int) : Prop :=
  (f.z = true ↔ v = 0) ∧ (f.p = true ↔ 0 < v) ∧ (f.n = true ↔ v < 0)

/-- `q` is the quotient of `a` by `b` "rounded toward zero" (rule R94): the remainder is smaller than the divisor and
has the sign of the dividend, or is 0. -/
def IsQuotient (a b q : Int) : Prop := ∃ r : Int, a = b * q + r ∧ r.natAbs < b.natAbs ∧ 0 ≤ r * a

/-- The instruction completed, wrote `v` to `rd`, and changed no other register and no cell. The flags are left open.
-/
def ResultWritten (rd : Reg) (v : c.Value) (s t : CoreState c) : Prop :=
  t.reg rd = v ∧ SameRegsBut [rd] s t ∧ SameCells s t ∧ SameRest s t ∧ CompletedTo (nextPc s.pc) s t

/-- The instruction completed, the next one is at `a`, and no register, flag or cell changed. -/
def OnlyWentTo (a : c.Value) (s t : CoreState c) : Prop :=
  SameRegsBut [] s t ∧ t.flags = s.flags ∧ SameCells s t ∧ SameRest s t ∧ CompletedTo a s t

/-- The instruction completed and stored `v` in the cell at the address `ea`, in the canonical memory, and in no other
cell. -/
def CellStored (ea v : c.Value) (s t : CoreState c) : Prop :=
  (∀ a : Nat, readCell t.dmem a = if a = ea.toNat then v else readCell s.dmem a) ∧ t.memoryOk = true ∧
    t.flags = s.flags ∧ SameRest s t ∧ CompletedTo (nextPc s.pc) s t

/-- What rule R120 says of a conditional branch with condition `cond`. -/
def BranchRule (i : Int → Instr) (cond : Flags → Prop) : Prop :=
  ∀ (c : Config) (l : Layer) (s : CoreState c) (imm : Int),
    let target := s.pc + BitVec.ofInt c.xlen imm
    (cond s.flags → aligned target = true →
        ∃ t : CoreState c, exec (i imm) (s.onLayer l) = .next (t.onLayer l) ∧ OnlyWentTo target s t) ∧
      (¬cond s.flags →
        ∃ t : CoreState c, exec (i imm) (s.onLayer l) = .next (t.onLayer l) ∧ OnlyWentTo (nextPc s.pc) s t) ∧
      (cond s.flags → aligned target = false →
        ∃ t : CoreState c, exec (i imm) (s.onLayer l) = .next (t.onLayer l) ∧
          FaultRecorded .misalignedTarget s.pc target s t)

/-- The condition of a conditional branch of the kind holds of the flags (rules R121 to R126). -/
def CondHolds (k : Kind) (f : Flags) : Prop :=
  (k = .bz ∧ f.z = true) ∨ (k = .bnz ∧ f.z = false) ∨ (k = .bp ∧ f.p = true) ∨ (k = .bnp ∧ f.p = false) ∨
    (k = .bn ∧ f.n = true) ∨ (k = .bnn ∧ f.n = false)

/-! The data memory through the Memory stage (rules R55, R61). -/

/-- Memory processes the instruction in `l`. -/
def CoreState.accessBy (s : CoreState c) (l : Latch c.xlen) : CoreState c := memStage { s with lMEM := l }

/-- The latch holds a load or a store. -/
def Latch.accesses (l : Latch c.xlen) : Prop := l.valid = true ∧ (isLoad l.kind = true ∨ isStore l.kind = true)

/-- The latch holds a store to the cell `a`. -/
def Latch.storesTo (l : Latch c.xlen) (a : c.Value) : Bool := l.valid && isStore l.kind && decide (l.memAddr = a)

/-! The branch-target buffer (rules R35, R209). -/

/-- (a) Tags of valid entries are unique. -/
def CoreState.tagsUnique (s : CoreState c) : Prop :=
  ∀ i j : Slot, s.btb[i.val].valid = true → s.btb[j.val].valid = true →
    s.btb[i.val].tag = s.btb[j.val].tag → i = j

/-- (e) Valid entries fill the table from slot 0 upward. -/
def CoreState.filledFromZero (s : CoreState c) : Prop :=
  ∀ i j : Slot, j ≤ i → s.btb[i.val].valid = true → s.btb[j.val].valid = true

/-- Slot `i` is the valid entry of address `a`. -/
def CoreState.ownsSlot (s : CoreState c) (i : Slot) (a : c.Value) : Prop :=
  s.btb[i.val].valid = true ∧ s.btb[i.val].tag = a

/-- The table, and what the branches in Decode and Execute know of it: a branch in Decode that missed has no entry,
one that hit has its own at `btb_idx`, and (d) a branch in Execute finds its own entry at `btb_idx`. -/
structure CoreState.BtbInv (s : CoreState c) : Prop where
  unique : s.tagsUnique
  filled : s.filledFromZero
  missD : s.lD.valid = true → isCondBranch s.lD.kind = true → s.lD.btbHit = false → s.lookup s.lD.pc = none
  hitD : s.lD.valid = true → isCondBranch s.lD.kind = true → s.lD.btbHit = true → s.ownsSlot s.lD.btbIdx s.lD.pc
  slotEX : s.lEX.valid = true → isCondBranch s.lEX.kind = true → s.ownsSlot s.lEX.btbIdx s.lEX.pc

/-! What no rule reads (rule R240): the fields beside `valid` of an invalid latch and of an invalid entry. -/

/-- Both latches are invalid, or they are the same. -/
def Latch.readsAlike (l m : Latch c.xlen) : Prop := l.valid = m.valid ∧ (l.valid = true → l = m)

/-- Both entries are invalid, or they are the same. -/
def BtbEntry.readsAlike (e f : BtbEntry c.xlen) : Prop := e.valid = f.valid ∧ (e.valid = true → e = f)

/-- The states differ at most in fields beside `valid` of invalid latches and invalid entries. -/
def CoreState.readsAlike (s t : CoreState c) : Prop :=
  t = { s with lF := t.lF, lD := t.lD, lEX := t.lEX, lMEM := t.lMEM, lWB := t.lWB, btb := t.btb } ∧
    s.lF.readsAlike t.lF ∧ s.lD.readsAlike t.lD ∧ s.lEX.readsAlike t.lEX ∧ s.lMEM.readsAlike t.lMEM ∧
    s.lWB.readsAlike t.lWB ∧ ∀ i : Slot, s.btb[i.val].readsAlike t.btb[i.val]

/-! The scoreboard (rule R191). -/

/-- How many of `L_EX`, `L_MEM`, `L_WB` are valid and have `r` in their `Dests`. -/
def CoreState.writersInFlight (s : CoreState c) (r : Reg) : Nat :=
  ([s.lEX, s.lMEM, s.lWB].filter fun l => l.produces r).length

/-- Rule R191: under `STALL_ONLY` a register is busy exactly when one instruction in flight writes it, and at most one
does; under `FORWARDING` no bit is set. -/
def CoreState.ScoreboardInv (s : CoreState c) : Prop :=
  match c.strategy with
  | .stallOnly => ∀ r : Reg, s.writersInFlight r ≤ 1 ∧ (s.busyBit r = true ↔ s.writersInFlight r = 1)
  | .forwarding => ∀ r : Reg, s.busyBit r = false

/-! The sequential state a pipeline state stands for. -/

/-- The instructions that have passed Execute complete: the pending `L_WB` is applied, then the access and the
writeback of `L_MEM` (rule R230). -/
def CoreState.drained (s : CoreState c) : CoreState c :=
  let s1 := memStage (wbStage s)
  if s1.fault.kind ≠ .none then s1 else wbStage s1

/-- The address of the next instruction to execute: the faulting one where a fault is recorded, else the oldest
instruction that has not passed Execute, else the one Fetch reads next. -/
def CoreState.nextToExecute (s : CoreState c) : c.Value :=
  if s.drained.fault.kind ≠ .none then s.drained.fault.pc
  else if s.lEX.valid then s.lEX.pc
  else if s.lD.valid then s.lD.pc
  else s.pc

/-- The state of the sequential machine a pipeline state stands for. -/
def CoreState.seqView (s : CoreState c) : CoreState c := { s.drained with pc := s.nextToExecute }

/-- Architectural state, the end of a run and the count of instructions: what rule R250 compares. -/
structure Arch (c : Config) where
  x : Vector c.Value 32
  pc : c.Value
  flags : Flags
  dmem : List (Nat × c.Value)
  halted : Bool
  fault : FaultReg c.xlen
  retired : c.Counter
deriving DecidableEq, Repr

/-- The architectural part of a state. -/
def CoreState.arch (s : CoreState c) : Arch c := ⟨s.x, s.pc, s.flags, s.dmem, s.halted, s.fault, s.retired⟩

/-! What holds of the pipeline at every tick boundary. -/

/-- The record the instruction store holds at `a`. -/
def CoreState.recordAt (s : CoreState c) (a : c.Value) : Option (Record c.xlen) :=
  (s.entryAt a).map (Entry.toRecord c.immBits)

/-- Where Fetch went after this instruction (rule R147). -/
def Latch.predictedNext (l : Latch c.xlen) : c.Value := if l.predTaken then branchTarget l.pc l.imm else nextPc l.pc

/-- The latch holds a `HALT` that has still to be processed. -/
def Latch.holdsHalt (l : Latch c.xlen) : Bool := l.valid && decide (l.kind = .halt)

/-- A `HALT` has issued and nothing younger is in the pipeline (rule R130). -/
def CoreState.fetchStopped (s : CoreState c) : Prop :=
  s.fetchEnabled = false ∧ s.stall = false ∧ s.lF.valid = false ∧ s.lD.valid = false

/-- The pipeline invariant. -/
structure CoreState.PipelineInv (s : CoreState c) : Prop where
  /-- A latch not past Execute holds the record of its own address (rules R32, R75). -/
  storeD : s.lD.valid = true → s.recordAt s.lD.pc = some s.lD.toRecord
  storeEX : s.lEX.valid = true → s.recordAt s.lEX.pc = some s.lEX.toRecord
  /-- Only conditional branches are predicted taken (rule R210). -/
  predD : s.lD.valid = true → s.lD.predTaken = true → isCondBranch s.lD.kind = true
  predEX : s.lEX.valid = true → s.lEX.predTaken = true → isCondBranch s.lEX.kind = true
  /-- Each instruction stands where the one before it was predicted to go. -/
  pathD : s.lD.valid = true → s.pc = s.lD.predictedNext
  pathEX : s.lEX.valid = true → (if s.lD.valid then s.lD.pc else s.pc) = s.lEX.predictedNext
  /-- A valid entry belongs to a conditional branch of the program and holds its taken target (rules R35, R209 (c)).
  -/
  target : ∀ i : Slot, s.btb[i.val].valid = true →
    ∃ r, s.recordAt s.btb[i.val].tag = some r ∧ isCondBranch r.kind = true ∧
      s.btb[i.val].target = branchTarget s.btb[i.val].tag r.imm
  /-- No bubble is pending at a tick boundary (rule R160: it is consumed in the same tick). -/
  noBubble : s.redirectPending = false
  /-- Nothing younger than `HALT` is in a latch, and `pc` holds the address after it (rules R130, R234). -/
  haltEX : s.lEX.holdsHalt = true → s.fetchStopped
  haltMEM : s.lMEM.holdsHalt = true → s.fetchStopped ∧ s.lEX.valid = false ∧ s.pc = nextPc s.lMEM.pc
  haltWB : s.lWB.holdsHalt = true →
    s.fetchStopped ∧ s.lEX.valid = false ∧ s.lMEM.valid = false ∧ s.pc = nextPc s.lWB.pc
  haltDone : s.halted = true →
    s.fetchStopped ∧ s.lEX.valid = false ∧ s.lMEM.valid = false ∧ s.lWB.valid = false ∧
      s.lWB.kind = .halt ∧ s.pc = nextPc s.lWB.pc
  /-- Fetching is disabled only behind a `HALT` (rules R29, R130). -/
  fetchOff : s.fetchEnabled = false →
    s.lEX.holdsHalt = true ∨ s.lMEM.holdsHalt = true ∨ s.lWB.holdsHalt = true ∨ s.halted = true
  /-- The operands captured for the instruction in Execute are the values program order gives them (rules R185, R190).
  -/
  operands : s.lEX.valid = true → s.drained.fault.kind = .none →
    (readsRs1 s.lEX.kind = true → s.lEX.rs1Value = s.drained.reg s.lEX.rs1) ∧
      (readsRs2 s.lEX.kind = true → s.lEX.rs2Value = s.drained.reg s.lEX.rs2)
  /-- The scoreboard is as rule R191 says. -/
  scoreboard : s.ScoreboardInv

end Sys2Proof.Machine
end

