-- ==== Sys2Proof/Certificates/Slice0/Obligations.lean ====
section
/-! DEFINITION. The statements for the provers. Each docstring says which rule of the spec it formalises. Where a
docstring says "the model's choice" or "the spec's inference", the clause named there is no rule of the spec. The
statements are for every value of the parameters (rule R5): where a rule writes 32, 16 or 64 for `XLEN`, `IMM_BITS` or
`COUNTER_BITS`, the parameter is read there (log entry 2). -/

open Sys2Proof Sys2Proof.Machine

/-! Encoding. -/

/-- Rule R80: the canonical word of a well-formed instruction has its opcode number in bits 31:26, 0 in every unused
bit, and decodes back, unused record fields 0; an instruction whose immediate is out of range has no word. The round
trip is the spec's inference there ("Decoding the canonical word of a record gives the record back"). An immediate
field `b` below 16 bits: the model's choice, log entry 2. -/
def Obligations.DecodeEncodeAgree : Prop :=
  ∀ (b : Nat) (i : Instr), b ≤ 16 →
    (i.wf b = true →
      decode b (encode b i) = .ok i ∧ Record.ofWord b (encode b i) = i.record b ∧
        some (fieldOp (encode b i)).toNat = i.kind.opcode ∧
        encode b i &&& ~~~(i.kind.format.usedBits b) = 0) ∧
      (i.wf b = false → ∀ w : Word, decode b w ≠ .ok i)

/-- Rule R77: a word with a legal opcode decodes, whatever its unused bits hold, to the record of its canonical form,
which is the word with the unused bits cleared. Which bits are unused where the immediate field `b` is below 16 bits:
the model's choice, log entry 2. -/
def Obligations.UnusedBitsIgnored : Prop :=
  ∀ (b : Nat) (w : Word), b ≤ 16 → (fieldOp w).toNat ≤ 25 →
    ∃ i, decode b w = .ok i ∧ i.wf b = true ∧ encode b i = w &&& i.kind.format.usedBits b ∧
      Record.ofWord b w = Record.ofWord b (encode b i)

/-- Rules R75 and R76: decoding is total; a word with `op` in 26 .. 63 is rejected by name and its record is `INVALID`
with every field 0, and no other word is rejected. -/
def Obligations.ReservedOpcodesRejected : Prop :=
  ∀ (b : Nat) (w : Word),
    (26 ≤ (fieldOp w).toNat →
      decode b w = .error (.reservedOpcode (fieldOp w).toNat) ∧ Record.ofWord b w = ⟨.invalid, 0, 0, 0, 0⟩) ∧
      ((fieldOp w).toNat ≤ 25 → ∃ i, decode b w = .ok i)

/-- A few words written out from rule R72 and the examples of the instruction rules decode to what they stand for. -/
def Obligations.SampleWordsDecode : Prop :=
  decode 16 0x00410800 = .ok (.add 2 1 1) ∧ decode 16 0x3461FFFE = .ok (.addl 3 1 (-2)) ∧
    decode 16 0x1C80FFFF = .ok (.movc 4 (-1)) ∧ decode 16 0x44011000 = .ok (.cmp 1 2) ∧
    decode 16 0x24410008 = .ok (.store 2 1 8) ∧ decode 16 0x3C810000 = .ok (.loadp 4 1 0) ∧
    decode 16 0x2C00FFF8 = .ok (.bnz (-8)) ∧ decode 16 0x5C1F0000 = .ok (.jump 31 0) ∧
    decode 16 0x63E10000 = .ok (.jalr 31 1 0) ∧ decode 16 0x30000000 = .ok .halt

/-! Arithmetic, logic, move and compare. -/

/-- `ADD`, `SUB`, `MUL`, `ADDL`, `SUBL` (rules R91 to R93, R98, R99, R103): the integer result modulo `2^XLEN`, the
flags from the wrapped result read as signed, nothing else. The count of `retired`, the pipeline state left alone: the
model's choice, log entries 1, 7, 13. -/
def Obligations.ArithmeticCompletes : Prop :=
  ∀ (c : Config) (l : Layer) (s : CoreState c) (rd rs1 rs2 : Reg) (imm : Int),
    (∃ t : CoreState c, exec (.add rd rs1 rs2) (s.onLayer l) = .next (t.onLayer l) ∧
        ResultWritten rd (BitVec.ofInt c.xlen ((s.reg rs1).toInt + (s.reg rs2).toInt)) s t ∧
        t.flags.tells (t.reg rd).toInt) ∧
      (∃ t : CoreState c, exec (.sub rd rs1 rs2) (s.onLayer l) = .next (t.onLayer l) ∧
        ResultWritten rd (BitVec.ofInt c.xlen ((s.reg rs1).toInt - (s.reg rs2).toInt)) s t ∧
        t.flags.tells (t.reg rd).toInt) ∧
      (∃ t : CoreState c, exec (.mul rd rs1 rs2) (s.onLayer l) = .next (t.onLayer l) ∧
        ResultWritten rd (BitVec.ofInt c.xlen ((s.reg rs1).toInt * (s.reg rs2).toInt)) s t ∧
        t.flags.tells (t.reg rd).toInt) ∧
      (∃ t : CoreState c, exec (.addl rd rs1 imm) (s.onLayer l) = .next (t.onLayer l) ∧
        ResultWritten rd (BitVec.ofInt c.xlen ((s.reg rs1).toInt + imm)) s t ∧
        t.flags.tells (t.reg rd).toInt) ∧
      ∃ t : CoreState c, exec (.subl rd rs1 imm) (s.onLayer l) = .next (t.onLayer l) ∧
        ResultWritten rd (BitVec.ofInt c.xlen ((s.reg rs1).toInt - imm)) s t ∧
        t.flags.tells (t.reg rd).toInt

/-- `DIV` with a divisor other than 0 (rule R94): the signed quotient rounded toward zero, narrowed to `XLEN` bits.
The count of `retired`, the pipeline state left alone: the model's choice, log entries 1, 7, 13. -/
def Obligations.DivisionCompletes : Prop :=
  ∀ (c : Config) (l : Layer) (s : CoreState c) (rd rs1 rs2 : Reg), s.reg rs2 ≠ 0 →
    ∃ (t : CoreState c) (q : Int), exec (.div rd rs1 rs2) (s.onLayer l) = .next (t.onLayer l) ∧
      IsQuotient (s.reg rs1).toInt (s.reg rs2).toInt q ∧
      ResultWritten rd (BitVec.ofInt c.xlen q) s t ∧ t.flags.tells (t.reg rd).toInt

/-- `DIV` by 0 (rules R94, R223): the fault, with the dividend as information, and no other effect. A fault as a next
state with `pc` kept: the model's choice, log entries 5, 13. -/
def Obligations.DivisionByZeroFaults : Prop :=
  ∀ (c : Config) (l : Layer) (s : CoreState c) (rd rs1 rs2 : Reg), s.reg rs2 = 0 →
    ∃ t : CoreState c, exec (.div rd rs1 rs2) (s.onLayer l) = .next (t.onLayer l) ∧
      FaultRecorded .divisionByZero s.pc (s.reg rs1) s t

/-- `AND`, `OR`, `XOR` bit by bit and `MOVC` (rules R95 to R97, R100): no flag changes. The count of `retired`, the
pipeline state left alone: the model's choice, log entries 1, 7, 13. -/
def Obligations.LogicAndMoveComplete : Prop :=
  ∀ (c : Config) (l : Layer) (s : CoreState c) (rd rs1 rs2 : Reg) (imm : Int),
    (∃ (t : CoreState c) (v : c.Value), exec (.and rd rs1 rs2) (s.onLayer l) = .next (t.onLayer l) ∧
        ResultWritten rd v s t ∧ t.flags = s.flags ∧
        ∀ k : Fin c.xlen, v[k] = ((s.reg rs1)[k] && (s.reg rs2)[k])) ∧
      (∃ (t : CoreState c) (v : c.Value), exec (.or rd rs1 rs2) (s.onLayer l) = .next (t.onLayer l) ∧
        ResultWritten rd v s t ∧ t.flags = s.flags ∧
        ∀ k : Fin c.xlen, v[k] = ((s.reg rs1)[k] || (s.reg rs2)[k])) ∧
      (∃ (t : CoreState c) (v : c.Value), exec (.xor rd rs1 rs2) (s.onLayer l) = .next (t.onLayer l) ∧
        ResultWritten rd v s t ∧ t.flags = s.flags ∧
        ∀ k : Fin c.xlen, v[k] = ((s.reg rs1)[k] ^^ (s.reg rs2)[k])) ∧
      ∃ t : CoreState c, exec (.movc rd imm) (s.onLayer l) = .next (t.onLayer l) ∧
        ResultWritten rd (BitVec.ofInt c.xlen imm) s t ∧ t.flags = s.flags

/-- `CMP` and `CML` (rules R101, R102): the flags from the integers compared, and nothing else. The count of
`retired`, the pipeline state left alone: the model's choice, log entries 1, 7, 13. -/
def Obligations.ComparesComplete : Prop :=
  ∀ (c : Config) (l : Layer) (s : CoreState c) (rs1 rs2 : Reg) (imm : Int),
    let v := BitVec.ofInt c.xlen imm
    (∃ t : CoreState c, exec (.cmp rs1 rs2) (s.onLayer l) = .next (t.onLayer l) ∧
        t.flags.tells ((s.reg rs1).toInt - (s.reg rs2).toInt) ∧
        SameRegsBut [] s t ∧ SameCells s t ∧ SameRest s t ∧ CompletedTo (nextPc s.pc) s t) ∧
      ∃ t : CoreState c, exec (.cml rs1 imm) (s.onLayer l) = .next (t.onLayer l) ∧
        t.flags.tells ((s.reg rs1).toInt - v.toInt) ∧
        SameRegsBut [] s t ∧ SameCells s t ∧ SameRest s t ∧ CompletedTo (nextPc s.pc) s t

/-- Rule R25: `SetFlags` tells the sign of the `XLEN`-bit result, exactly one flag is set, and Execute applies it to
the result of each of the six kinds. -/
def Obligations.SetFlagsRule : Prop :=
  ∀ c : Config,
    (∀ v : c.Value, (Flags.ofResult v).tells v.toInt ∧ (Flags.ofResult v).exactlyOne) ∧
      ∀ (l l' : Latch c.xlen) (s t : CoreState c),
        l.kind = .add ∨ l.kind = .sub ∨ l.kind = .mul ∨ l.kind = .div ∨ l.kind = .addl ∨ l.kind = .subl →
          exKind l s = .pass l' t → t.flags = Flags.ofResult l'.result

/-- Rule R26: `CompareFlags` compares without wrap-around, Execute applies it for `CMP` and `CML`, and it differs from
the flags of the wrapped difference exactly when the difference does not fit `XLEN` bits. -/
def Obligations.CompareFlagsRule : Prop :=
  ∀ c : Config,
    (∀ a b : c.Value,
        (Flags.ofCompare a b).tells (a.toInt - b.toInt) ∧ (Flags.ofCompare a b).exactlyOne ∧
          (Flags.ofCompare a b ≠ Flags.ofResult (a - b) ↔
            2 * (a.toInt - b.toInt) < -2 ^ c.xlen ∨ 2 ^ c.xlen ≤ 2 * (a.toInt - b.toInt))) ∧
      ∀ (l : Latch c.xlen) (s : CoreState c),
        (l.kind = .cmp → ∃ t, exKind l s = .pass l t ∧ t.flags = Flags.ofCompare l.rs1Value l.rs2Value) ∧
          (l.kind = .cml → ∃ t, exKind l s = .pass l t ∧ t.flags = Flags.ofCompare l.rs1Value l.imm)

/-- Rule R27: no instruction but the eight flag-setting ones changes a flag, in either layer. -/
def Obligations.OnlyFlagSettersChangeFlags : Prop :=
  ∀ (c : Config) (s : CoreState c),
    (∀ (l : Layer) (i : Instr) (t : CoreState c), exec i (s.onLayer l) = .next (t.onLayer l) →
        t.flags ≠ s.flags → i.kind ∈ [Kind.add, .sub, .mul, .div, .addl, .subl, .cmp, .cml]) ∧
      ((tick s).flags ≠ s.flags →
        s.lEX.valid = true ∧ s.lEX.kind ∈ [Kind.add, .sub, .mul, .div, .addl, .subl, .cmp, .cml])

/-! Loads and stores. -/

/-- `LOAD` inside the data memory (rule R111). The count of `retired`, the pipeline state left alone, the unsigned
bounds test: the model's choice, log entries 1, 7, 8, 13. -/
def Obligations.LoadCompletes : Prop :=
  ∀ (c : Config) (l : Layer) (s : CoreState c) (rd rs1 : Reg) (imm : Int),
    let ea := effAddr (s.reg rs1) (immValue c imm)
    ea.toNat < c.dmemSize →
      ∃ t : CoreState c, exec (.load rd rs1 imm) (s.onLayer l) = .next (t.onLayer l) ∧
        ResultWritten rd (readCell s.dmem ea.toNat) s t ∧ t.flags = s.flags

/-- `LOADP` inside the data memory (rule R112): the loaded value in `rd` even where `rd` is the base, else the old
base plus `POSTINC_STEP` in the base. The count of `retired`, the pipeline state left alone, the unsigned bounds test:
the model's choice, log entries 1, 7, 8, 13. -/
def Obligations.LoadpCompletes : Prop :=
  ∀ (c : Config) (l : Layer) (s : CoreState c) (rd rs1 : Reg) (imm : Int),
    let ea := effAddr (s.reg rs1) (immValue c imm)
    ea.toNat < c.dmemSize →
      ∃ t : CoreState c, exec (.loadp rd rs1 imm) (s.onLayer l) = .next (t.onLayer l) ∧
        t.reg rd = readCell s.dmem ea.toNat ∧
        (rd ≠ rs1 → t.reg rs1 = s.reg rs1 + BitVec.ofNat c.xlen c.postincStep) ∧
        SameRegsBut [rd, rs1] s t ∧ t.flags = s.flags ∧ SameCells s t ∧ SameRest s t ∧
        CompletedTo (nextPc s.pc) s t

/-- `STORE` inside the data memory (rule R113): one cell changes. The count of `retired`, the pipeline state left
alone, the unsigned bounds test: the model's choice, log entries 1, 7, 8, 13. The canonical form: log entry 9. -/
def Obligations.StoreCompletes : Prop :=
  ∀ (c : Config) (l : Layer) (s : CoreState c) (rs1 rs2 : Reg) (imm : Int),
    let ea := effAddr (s.reg rs2) (immValue c imm)
    s.memoryOk = true → ea.toNat < c.dmemSize →
      ∃ t : CoreState c, exec (.store rs1 rs2 imm) (s.onLayer l) = .next (t.onLayer l) ∧
        SameRegsBut [] s t ∧ CellStored ea (s.reg rs1) s t

/-- `STOREP` inside the data memory (rule R114): one cell changes, and the base becomes the old base plus
`POSTINC_STEP`; where the value is the base itself, the old base is stored. The count of `retired`, the pipeline state
left alone, the unsigned bounds test: the model's choice, log entries 1, 7, 8, 13. The canonical form: log entry 9. -/
def Obligations.StorepCompletes : Prop :=
  ∀ (c : Config) (l : Layer) (s : CoreState c) (rs1 rs2 : Reg) (imm : Int),
    let ea := effAddr (s.reg rs2) (immValue c imm)
    s.memoryOk = true → ea.toNat < c.dmemSize →
      ∃ t : CoreState c, exec (.storep rs1 rs2 imm) (s.onLayer l) = .next (t.onLayer l) ∧
        t.reg rs2 = s.reg rs2 + BitVec.ofNat c.xlen c.postincStep ∧
        SameRegsBut [rs2] s t ∧ CellStored ea (s.reg rs1) s t

/-- The four memory instructions outside the data memory (rules R56, R224): the fault, and no other effect. A fault as
a next state with `pc` kept: the model's choice, log entries 5, 13. The unsigned bounds test: log entry 8. -/
def Obligations.AccessOutsideMemoryFaults : Prop :=
  ∀ (c : Config) (l : Layer) (s : CoreState c) (r q : Reg) (imm : Int),
    let ea := effAddr (s.reg r) (immValue c imm)
    c.dmemSize ≤ ea.toNat →
      (∃ t : CoreState c, exec (.load q r imm) (s.onLayer l) = .next (t.onLayer l) ∧
          FaultRecorded .memoryFault s.pc ea s t) ∧
        (∃ t : CoreState c, exec (.loadp q r imm) (s.onLayer l) = .next (t.onLayer l) ∧
          FaultRecorded .memoryFault s.pc ea s t) ∧
        (∃ t : CoreState c, exec (.store q r imm) (s.onLayer l) = .next (t.onLayer l) ∧
          FaultRecorded .memoryFault s.pc ea s t) ∧
        ∃ t : CoreState c, exec (.storep q r imm) (s.onLayer l) = .next (t.onLayer l) ∧
          FaultRecorded .memoryFault s.pc ea s t

/-- Rule R56: for a memory of at most half the address space, `2^31` cells by default, the signed test and the
unsigned test of an address are one; an access that passes it is made, one that fails it is not. -/
def Obligations.BoundsCheckSignedUnsigned : Prop :=
  ∀ (c : Config) (s : CoreState c) (a v : c.Value), 2 * c.dmemSize ≤ 2 ^ c.xlen →
    ((a.toInt < 0 ∨ (c.dmemSize : Int) ≤ a.toInt) ↔ c.dmemSize ≤ a.toNat) ∧
      ((a.toInt < 0 ∨ (c.dmemSize : Int) ≤ a.toInt) ↔ s.memRead a = none) ∧
      ((a.toInt < 0 ∨ (c.dmemSize : Int) ≤ a.toInt) ↔ s.memWrite a v = none)

/-- Rule R61: after any sequence of instructions has passed Memory, from a core with the reset memory, a load in
Memory hands on the value of the youngest store to its cell, or 0 if there is none. Every access is inside the memory;
a faulting one ends the run. The spec's inference there ("every load returns the value written by the youngest older
store to the same cell, or the reset value 0 if there is none"); the list of cells is the model's choice, log entry 9.
-/
def Obligations.LoadReturnsYoungestStore : Prop :=
  ∀ (c : Config) (s : CoreState c) (older : List (Latch c.xlen)) (l : Latch c.xlen), s.dmem = [] →
    (∀ k ∈ older, k.accesses → k.memAddr.toNat < c.dmemSize) →
      l.valid = true → isLoad l.kind = true → l.memAddr.toNat < c.dmemSize →
        let t := (older.foldl CoreState.accessBy s).accessBy l
        t.lWB.valid = true ∧
          t.lWB.result =
            ((older.reverse.find? fun k => k.storesTo l.memAddr).map fun k => k.rs1Value).getD 0

/-- Rules R53, R55: a tick changes the data memory only by the store in Memory, inside the memory, and only its cell.
The list of cells: the model's choice, log entry 9. -/
def Obligations.OnlyStoresWriteMemory : Prop :=
  ∀ (c : Config) (s : CoreState c), (tick s).dmem ≠ s.dmem →
    s.lMEM.valid = true ∧ isStore s.lMEM.kind = true ∧ s.lMEM.memAddr.toNat < c.dmemSize ∧
      (tick s).dmem = writeCell s.dmem s.lMEM.memAddr.toNat s.lMEM.rs1Value

/-! Control transfer. -/

/-- The six conditional branches (rules R120 to R126, R131): taken to an aligned target, not taken whatever the
offset, and taken to a misaligned one. The count of `retired`, the pipeline state left alone: the model's choice, log
entries 1, 7, 13. A fault as a next state with `pc` kept: the model's choice, log entries 5, 13. -/
def Obligations.BranchesComplete : Prop :=
  BranchRule .bz (fun f => f.z = true) ∧ BranchRule .bnz (fun f => f.z = false) ∧
    BranchRule .bp (fun f => f.p = true) ∧ BranchRule .bnp (fun f => f.p = false) ∧
    BranchRule .bn (fun f => f.n = true) ∧ BranchRule .bnn (fun f => f.n = false)

/-- `JUMP` and `JALR` to an aligned target (rules R127, R128): the target is computed from the old register, the link
is the address after the instruction. The count of `retired`, the pipeline state left alone: the model's choice, log
entries 1, 7, 13. -/
def Obligations.JumpsComplete : Prop :=
  ∀ (c : Config) (l : Layer) (s : CoreState c) (rd rs1 : Reg) (imm : Int),
    let target := s.reg rs1 + BitVec.ofInt c.xlen imm
    aligned target = true →
      (∃ t : CoreState c, exec (.jump rs1 imm) (s.onLayer l) = .next (t.onLayer l) ∧ OnlyWentTo target s t) ∧
        ∃ t : CoreState c, exec (.jalr rd rs1 imm) (s.onLayer l) = .next (t.onLayer l) ∧
          t.reg rd = s.pc + 4 ∧ SameRegsBut [rd] s t ∧
          t.flags = s.flags ∧ SameCells s t ∧ SameRest s t ∧ CompletedTo target s t

/-- `JUMP` and `JALR` to a misaligned target (rules R131, R225): the fault; no link is written. A fault as a next
state with `pc` kept: the model's choice, log entries 5, 13. -/
def Obligations.MisalignedJumpsFault : Prop :=
  ∀ (c : Config) (l : Layer) (s : CoreState c) (rd rs1 : Reg) (imm : Int),
    let target := s.reg rs1 + BitVec.ofInt c.xlen imm
    aligned target = false →
      (∃ t : CoreState c, exec (.jump rs1 imm) (s.onLayer l) = .next (t.onLayer l) ∧
          FaultRecorded .misalignedTarget s.pc target s t) ∧
        ∃ t : CoreState c, exec (.jalr rd rs1 imm) (s.onLayer l) = .next (t.onLayer l) ∧
          FaultRecorded .misalignedTarget s.pc target s t

/-- `NOP` (rule R129) and `HALT` (rule R130): `HALT` stops the machine, with `pc` after it. The count of
`retired`, the pipeline state left alone: the model's choice, log entries 1, 7, 13. -/
def Obligations.NopAndHaltComplete : Prop :=
  ∀ (c : Config) (l : Layer) (s : CoreState c),
    (∃ t : CoreState c, exec .nop (s.onLayer l) = .next (t.onLayer l) ∧ OnlyWentTo (nextPc s.pc) s t) ∧
      ∃ t : CoreState c, exec .halt (s.onLayer l) = .next (t.onLayer l) ∧ t.halted = true ∧
        t.pc = nextPc s.pc ∧ t.retired = s.retired + 1 ∧
        t.fault = s.fault ∧ SameRegsBut [] s t ∧ t.flags = s.flags ∧ SameCells s t ∧ SameRest s t

/-! The sequential layer. -/

/-- A step of the sequential layer runs the decoded instruction (rule R250): for a word that decodes, and for a
record. The layer: the model's choice, log entry 1. -/
def Obligations.StepRunsDecodedInstruction : Prop :=
  ∀ (c : Config) (s : CoreState c) (i : Instr), s.bootProblem = none → s.stopped = false →
    (∀ w, s.entryAt s.pc = some (.word w) → decode c.immBits w = .ok i →
        step (s.onLayer .sequential) = exec i (s.onLayer .sequential)) ∧
      ∀ r, s.entryAt s.pc = some (.record r) → r.instr? = some i →
        step (s.onLayer .sequential) = exec i (s.onLayer .sequential)

/-- The placing of an instruction: the next step runs exactly the instruction that was placed. `withFetchWord` and the
layer it selects are the model's own (log entries 1 and 6). -/
def Obligations.PlacedInstructionRuns : Prop :=
  ∀ (s : State) (nbits w : Nat) (i : Instr), s.config.wf = true →
    s.config.codeBase + 4 * max 1 s.core.imem.length ≤ 2 ^ s.config.xlen →
      (decode s.config.immBits (BitVec.ofNat 32 (w % 2 ^ nbits)) = .ok i →
          step (s.withFetchWord nbits w) = exec i (s.withFetchWord nbits w)) ∧
        (s.config.immBits = 16 → decodeTableWord nbits w = some i →
          step (s.withFetchWord nbits w) = exec i (s.withFetchWord nbits w))

/-- Rules R133 and R222 on the sequential layer: an `INVALID` entry at `pc` raises `InvalidOpcode(pc, 0)`. A fault as
a next state with `pc` kept: the model's choice, log entries 5, 13. The layer: log entry 1. -/
def Obligations.InvalidEntryFaults : Prop :=
  ∀ (c : Config) (s : CoreState c) (e : Entry c.xlen), s.bootProblem = none → s.stopped = false →
    s.entryAt s.pc = some e → (e.toRecord c.immBits).kind = .invalid →
      ∃ t : CoreState c, step (s.onLayer .sequential) = .next (t.onLayer .sequential) ∧
        FaultRecorded .invalidOpcode s.pc 0 s t

/-- Rule R251: what an instruction does to the architectural state depends on the architectural state, the parameters
and the instruction alone, not on a counter, a latch, the table or the scoreboard. Stated of the sequential layer, log
entry 1. -/
def Obligations.TimingInvisible : Prop :=
  ∀ (c : Config) (k l : Layer) (i : Instr) (s u t : CoreState c),
    u.x = s.x → u.pc = s.pc → u.flags = s.flags → u.dmem = s.dmem → u.halted = s.halted → u.fault = s.fault →
      exec i (s.onLayer k) = .next (t.onLayer k) →
        ∃ v : CoreState c, exec i (u.onLayer l) = .next (v.onLayer l) ∧ v.x = t.x ∧ v.pc = t.pc ∧
          v.flags = t.flags ∧ v.dmem = t.dmem ∧ v.halted = t.halted ∧ v.fault = t.fault

/-! Stops, reset and the driver. -/

/-- Rules R221, R229, R234: a stopped machine stays as it is, on either layer. A fault as a state that steps to
itself: the model's choice, log entry 5. -/
def Obligations.StoppedMachineStays : Prop :=
  ∀ s : State, s.core.bootProblem = none → s.core.halted = true ∨ s.core.fault.kind ≠ .none →
    step s = .next s

/-- Rule R8: "with `N = 0` the core is not started at all". The refusal by name: the model's choice, log entry 4. -/
def Obligations.EmptyProgramRefused : Prop :=
  ∀ s : State, s.core.imem = [] → step s = .refused .noProgram

/-- Rule R240: the reset values, for every program, every parameter and either strategy, and asserting reset from any
state. The layer, which reset keeps: the model's choice, log entry 1. -/
def Obligations.ResetValues : Prop :=
  ∀ (c : Config) (p : List (Entry c.xlen)) (u : State) (st : Strategy),
    let s := CoreState.resetWith c p
    (∀ r : Reg, s.reg r = 0 ∧ s.busyBit r = false) ∧ s.pc = BitVec.ofNat c.xlen c.codeBase ∧
      s.flags = ⟨false, false, false⟩ ∧
      (∀ a, readCell s.dmem a = 0) ∧ s.imem = p ∧ s.cycles = 0 ∧ s.retired = 0 ∧
      s.redirectPending = false ∧ s.halted = false ∧ s.fetchEnabled = true ∧ s.stall = false ∧
      s.fault = ⟨.none, 0, 0⟩ ∧ s.lF = .empty ∧ s.lD = .empty ∧ s.lEX = .empty ∧ s.lMEM = .empty ∧
      s.lWB = .empty ∧ (∀ i : Slot, s.btb[i.val] = .empty) ∧
      u.assertReset st =
        (CoreState.resetWith { u.config with strategy := st } u.core.imem).onLayer u.layer

/-- Rule R241: the first tick after reset fetches entry 0, and nothing else happens in it but the count of the cycle.
-/
def Obligations.FirstTickFetchesEntryZero : Prop :=
  ∀ (c : Config) (e : Entry c.xlen) (p : List (Entry c.xlen)), (CoreState.resetWith c (e :: p)).bootProblem = none →
    let s := CoreState.resetWith c (e :: p)
    step (s.onLayer .pipeline) = .next (CoreState.onLayer
      { s with
        pc := c.entryPoint + 4
        cycles := 1
        lF := Latch.fetched c.entryPoint (e.toRecord c.immBits)
        lD := Latch.fetched c.entryPoint (e.toRecord c.immBits) } .pipeline)

/-- Rule R142: a run is resumable: a run to a limit followed by a run to a larger one is the run to the larger one;
and a run that ends is stopped or at its limit (rule R235). The limit as a value of `COUNTER_BITS` bits: the model's
choice, log entry 14. -/
def Obligations.RunIsResumable : Prop :=
  ∀ (c : Config) (s : CoreState c) (m n : c.Counter), m.toNat ≤ n.toNat →
    run n (run m s) = run n s ∧ ((run m s).stopped = true ∨ m.toNat ≤ (run m s).cycles.toNat)

/-! Invariants of both layers. -/

/-- Every step keeps the canonical data memory with no cell outside it (rules R53, R56), the exclusion of the flags
(rule R24), the instruction store (rules R50, R63), the parameters and the strategy (rule R4), and the layer. The
canonical form and the layer: the model's choice, log entries 1 and 9. -/
def Obligations.StepKeepsMemoryFlagsProgram : Prop :=
  ∀ (c : Config) (l : Layer) (s : CoreState c) (t : State), step (s.onLayer l) = .next t →
    ∃ u : CoreState c, t = u.onLayer l ∧ (s.memoryOk = true → u.memoryOk = true) ∧
      (s.flags.exclusive → u.flags.exclusive) ∧ (s.flags.exactlyOne → u.flags.exactlyOne) ∧ u.imem = s.imem

/-- The reset state, for every program and parameters, has every invariant stated here, and stands for the sequential
machine's reset state. The invariants are the spec's inferences (rules R191, R209) and the model's own. -/
def Obligations.ResetHasInvariants : Prop :=
  ∀ (c : Config) (p : List (Entry c.xlen)),
    let s := CoreState.resetWith c p
    s.memoryOk = true ∧ s.flags.exclusive ∧ s.BtbInv ∧ s.ScoreboardInv ∧ s.PipelineInv ∧
      s.seqView.arch = s.arch

/-! The branch-target buffer. -/

/-- Rule R202: the prediction. Rule R205: the seeds. Rule R206: the four states of the history, that `(0,0)` is never
re-entered from another state, the reading as a two-bit number, and that one slot alone is updated. -/
def Obligations.HistoryRules : Prop :=
  (∀ k : Kind, isCondBranch k = true →
      seed k = if k = .bnz ∨ k = .bp then (true, true) else (false, false)) ∧
    (nextHistory false false true = (false, true) ∧ nextHistory false false false = (false, false)) ∧
    (nextHistory false true true = (true, false) ∧ nextHistory false true false = (false, true)) ∧
    (nextHistory true false true = (true, true) ∧ nextHistory true false false = (false, true)) ∧
    (nextHistory true true true = (true, true) ∧ nextHistory true true false = (true, false)) ∧
    (∀ h0 h1 taken, (h0, h1) ≠ (false, false) → nextHistory h0 h1 taken ≠ (false, false)) ∧
    (∀ h0 h1 : Bool,
      let number (h : Bool × Bool) : Nat := 2 * h.1.toNat + h.2.toNat
      number (nextHistory h0 h1 true) = min 3 (number (h0, h1) + 1) ∧
        number (nextHistory h0 h1 false) = if number (h0, h1) = 0 then 0 else max 1 (number (h0, h1) - 1)) ∧
    ∀ (c : Config) (s : CoreState c) (i j : Slot) (taken : Bool),
      (s.predictTaken i = true ↔
          (s.btb[i.val].h0, s.btb[i.val].h1) = (true, false) ∨ (s.btb[i.val].h0, s.btb[i.val].h1) = (true, true)) ∧
        ((s.updateHistory i taken).btb[i.val].h0, (s.updateHistory i taken).btb[i.val].h1) =
          nextHistory s.btb[i.val].h0 s.btb[i.val].h1 taken ∧
        (j ≠ i → (s.updateHistory i taken).btb[j.val] = s.btb[j.val])

/-- Rule R204: an allocation takes the first invalid slot, slot 0 where the table is full, and touches no other. -/
def Obligations.AllocationTakesFirstFreeSlot : Prop :=
  ∀ (c : Config) (s : CoreState c) (a : c.Value) (k : Kind) (u : c.Value) (i : Slot),
    (s.btb[i.val].valid = false → (∀ j : Slot, j < i → s.btb[j.val].valid = true) → s.victim = i) ∧
      ((∀ j : Slot, s.btb[j.val].valid = true) → s.victim = 0) ∧
      (s.allocate a k u).btb[i.val] =
        if i = s.victim then ⟨true, a, (seed k).1, (seed k).2, u⟩ else s.btb[i.val]

/-- Rules R207, R208: how a conditional branch resolves in Execute. The history is trained in every case and before
anything else; then the fault of a misaligned taken target, or the redirect where the fetch path was wrong, or
nothing. -/
def Obligations.BranchResolution : Prop :=
  ∀ (c : Config) (l : Latch c.xlen) (s : CoreState c) (taken : Bool),
    isCondBranch l.kind = true → (taken = true ↔ CondHolds l.kind s.flags) →
      let u := s.updateHistory l.btbIdx taken
      (taken = true → aligned (l.pc + l.imm) = false →
          exKind l s = .raise (u.raise .misalignedTarget l.pc (l.pc + l.imm))) ∧
        (taken = true → aligned (l.pc + l.imm) = true → l.predTaken = true → exKind l s = .pass l u) ∧
        (taken = true → aligned (l.pc + l.imm) = true → l.predTaken = false →
          exKind l s = .pass l (u.redirect (l.pc + l.imm))) ∧
        (taken = false → l.predTaken = true → exKind l s = .pass l (u.redirect (l.pc + 4))) ∧
        (taken = false → l.predTaken = false → exKind l s = .pass l u)

/-- Rule R209 (a), (b), (d), (e): every tick keeps the invariants of the table, from every state that has them, and no
tick clears a valid bit, from any state at all. The spec's inference: rule R209 is marked derived. -/
def Obligations.TickKeepsBtbInv : Prop :=
  ∀ (c : Config) (s : CoreState c),
    (s.BtbInv → (tick s).BtbInv) ∧
      ∀ i : Slot, s.btb[i.val].valid = true → (tick s).btb[i.val].valid = true

/-! The hazard unit. -/

/-- Rule R191: under `STALL_ONLY` a register is busy exactly when one instruction in flight writes it, and at most one
does; under `FORWARDING` no register is busy. It holds after reset and every step keeps it, on either layer. The
spec's inference: rule R191 is marked derived. The layer and no busy bit under `FORWARDING`: the model's choice, log
entries 1 and 10. -/
def Obligations.ScoreboardInvariant : Prop :=
  (∀ (c : Config) (p : List (Entry c.xlen)), (CoreState.resetWith c p).ScoreboardInv) ∧
    ∀ (c : Config) (l : Layer) (s t : CoreState c), s.ScoreboardInv →
      step (s.onLayer l) = .next (t.onLayer l) → t.ScoreboardInv

/-- Rule R183: Writeback clears the busy bits of the registers it writes, and no other stage clears a busy bit. -/
def Obligations.BusyClearedInWritebackOnly : Prop :=
  ∀ (c : Config) (s : CoreState c) (r : Reg),
    ((wbStage s).busyBit r = true ↔
        s.busyBit r = true ∧ ¬(s.lWB.valid = true ∧ r ∈ dests s.lWB.toRecord)) ∧
      (memStage s).busyBit r = s.busyBit r ∧ (exStage s).busyBit r = s.busyBit r ∧
      (s.busyBit r = true → (drfStage s).busyBit r = true) ∧ (fetchStage s).busyBit r = s.busyBit r

/-- Rules R21, R143: a tick changes a register only by the instruction in Writeback, which writes its destinations:
`rd` gets the result, and the base of a post-increment form the incremented base unless it is `rd`. -/
def Obligations.OnlyWritebackWritesRegisters : Prop :=
  ∀ (c : Config) (s : CoreState c) (r : Reg), s.stopped = false →
    (tick s).reg r =
      if s.lWB.valid = true ∧ writesRd s.lWB.kind = true ∧ s.lWB.rd = r then s.lWB.result
      else if s.lWB.valid = true ∧ base? s.lWB.toRecord = some r then s.lWB.baseNew
      else s.reg r

/-- Rules R187, R190: where Decode need not stall, the operand it takes is the value the older instructions leave in
the register once they complete: the youngest producer's under `FORWARDING`, the register file's under `STALL_ONLY`.
Stated where Decode runs, after Execute has emptied `L_EX`. The spec's inference (rule R190: "so `x[r]` is the value
program order requires"). -/
def Obligations.OperandIsProgramOrderValue : Prop :=
  ∀ (c : Config) (s : CoreState c) (l : Latch c.xlen) (r : Reg), s.ScoreboardInv → s.lEX.valid = false →
    s.drained.fault.kind = .none → s.mustStall l = false → r ∈ sources l.toRecord →
      s.operandValue r = s.drained.reg r

/-- Rule R186: under `FORWARDING` a stall "is therefore always exactly one cycle": a tick that stalled is followed by
one that does not. Rule R163: under `STALL_ONLY` never more than two stall ticks follow each other. The bound of rule
R163 is the spec's inference ("Penalties", marked derived). -/
def Obligations.StallsAreBounded : Prop :=
  ∀ (c : Config) (s : CoreState c),
    (c.strategy = .forwarding → (tick s).stall = true → (tick (tick s)).stopped = false →
        (tick (tick s)).stall = false) ∧
      (c.strategy = .stallOnly → s.ScoreboardInv → (tick s).stall = true → (tick (tick s)).stall = true →
        (tick (tick (tick s))).stopped = false → (tick (tick (tick s))).stall = false)

/-- Rule R33, rule R147 (b): a tick that stalls keeps `pc` and the instruction in Decode, and leaves the bubble in
`L_EX`. -/
def Obligations.StallHoldsDecode : Prop :=
  ∀ (c : Config) (s : CoreState c), s.stopped = false → (tick s).stopped = false → (tick s).stall = true →
    (tick s).pc = s.pc ∧ s.lD.valid = true ∧ (tick s).lD.valid = true ∧
      (tick s).lD.toRecord = s.lD.toRecord ∧ (tick s).lD.pc = s.lD.pc ∧ (tick s).lEX.valid = false

/-! The cycle procedure. -/

/-- Rule R30: an evaluated tick counts one cycle, and one retired instruction exactly when `L_WB` is valid; both
counters wrap modulo `2^COUNTER_BITS`. -/
def Obligations.TickCounts : Prop :=
  ∀ (c : Config) (s : CoreState c), s.stopped = false →
    (tick s).cycles.toNat = (s.cycles.toNat + 1) % 2 ^ c.counterBits ∧
      (tick s).retired.toNat = (s.retired.toNat + if s.lWB.valid = true then 1 else 0) % 2 ^ c.counterBits

/-- Rule R160: a tick in which an aligned `JUMP` or `JALR` executes leaves `pc` at the target, Decode and Fetch
flushed, nothing issued, the bubble consumed and fetching enabled. -/
def Obligations.JumpTickRedirects : Prop :=
  ∀ (c : Config) (s : CoreState c), s.stopped = false → (wbStage s).halted = false →
    (memStage (wbStage s)).fault.kind = .none → s.lEX.valid = true → s.lEX.kind = .jump ∨ s.lEX.kind = .jalr →
    aligned (s.lEX.rs1Value + s.lEX.imm) = true →
      (tick s).pc = s.lEX.rs1Value + s.lEX.imm ∧ (tick s).lD.valid = false ∧ (tick s).lF.valid = false ∧
        (tick s).lEX.valid = false ∧ (tick s).lMEM.valid = true ∧ (tick s).lMEM.toRecord = s.lEX.toRecord ∧
        (tick s).redirectPending = false ∧ (tick s).fetchEnabled = true ∧ (tick s).btb = s.btb

/-- Rule R220: a fault that a tick records has the cause, the stage, the `pc` and the information of the table. -/
def Obligations.FaultCauses : Prop :=
  ∀ (c : Config) (s : CoreState c), s.stopped = false →
    let f := (tick s).fault
    (f.kind = .invalidOpcode →
        s.lEX.valid = true ∧ s.lEX.kind = .invalid ∧ f.pc = s.lEX.pc ∧ f.info = 0) ∧
      (f.kind = .divisionByZero →
        s.lEX.valid = true ∧ s.lEX.kind = .div ∧ s.lEX.rs2Value = 0 ∧ f.pc = s.lEX.pc ∧
          f.info = s.lEX.rs1Value) ∧
      (f.kind = .memoryFault →
        s.lMEM.valid = true ∧ (isLoad s.lMEM.kind = true ∨ isStore s.lMEM.kind = true) ∧
          c.dmemSize ≤ s.lMEM.memAddr.toNat ∧ f.pc = s.lMEM.pc ∧ f.info = s.lMEM.memAddr) ∧
      (f.kind = .misalignedTarget →
        s.lEX.valid = true ∧ f.pc = s.lEX.pc ∧ aligned f.info = false ∧
          ((isCondBranch s.lEX.kind = true ∧ CondHolds s.lEX.kind s.flags ∧ f.info = s.lEX.pc + s.lEX.imm) ∨
            ((s.lEX.kind = .jump ∨ s.lEX.kind = .jalr) ∧ f.info = s.lEX.rs1Value + s.lEX.imm)))

/-- Rule R228: where Memory and Execute would fault in one tick, the older instruction's `MemoryFault` is recorded and
the younger is not executed: it stays in `L_EX`, and flags, table, `pc` and Decode are untouched. The spec's inference
there ("the older instruction's `MemoryFault` is the one recorded and the younger instruction is not executed at
all"). -/
def Obligations.OlderMemoryFaultWins : Prop :=
  ∀ (c : Config) (s : CoreState c), s.stopped = false → (wbStage s).halted = false → s.lMEM.valid = true →
    isLoad s.lMEM.kind = true ∨ isStore s.lMEM.kind = true → c.dmemSize ≤ s.lMEM.memAddr.toNat →
      (tick s).fault = ⟨.memoryFault, s.lMEM.pc, s.lMEM.memAddr⟩ ∧ (tick s).lEX = s.lEX ∧
        (tick s).lMEM = s.lMEM ∧ (tick s).flags = s.flags ∧ (tick s).btb = s.btb ∧ (tick s).pc = s.pc ∧
        (tick s).lD = s.lD ∧ (tick s).dmem = s.dmem

/-- Rule R52 in Fetch: at an address that is not fetchable Fetch passes nothing on, keeps `pc` and raises nothing;
fetchable is what the rule says. -/
def Obligations.UnfetchableFetchesNothing : Prop :=
  ∀ (c : Config) (s : CoreState c),
    ((s.entryAt s.pc).isSome = true ↔
        c.codeBase ≤ s.pc.toNat ∧ s.pc.toNat < c.codeBase + 4 * s.imem.length ∧
          s.pc.toNat % 4 = 0) ∧
      (s.entryAt s.pc = none →
        fetchStage s = { s with redirectPending := false, lF := { s.lF with valid := false } })

/-- Rule R164: after the program ran off the end of the store and the pipeline drained, a tick changes nothing but the
counter of cycles, the display latch and `stall`. -/
def Obligations.DrainedPipelineIdles : Prop :=
  ∀ (c : Config) (s : CoreState c), s.stopped = false → s.lD.valid = false → s.lEX.valid = false →
    s.lMEM.valid = false → s.lWB.valid = false → s.redirectPending = false → s.entryAt s.pc = none →
      tick s = { s with cycles := s.cycles + 1, stall := false, lF := { s.lF with valid := false } }

/-- Rule R240, its last sentence: the fields beside `valid` of an invalid latch and of an invalid entry of the table
are never read: two states that differ only in them go to two such states. -/
def Obligations.InvalidFieldsNeverRead : Prop :=
  ∀ (c : Config) (s t : CoreState c), s.readsAlike t → (tick s).readsAlike (tick t)

/-! The pipeline against the sequential machine. -/

/-- Every tick keeps the pipeline invariant: every latch not past Execute holds the record of its address on the
predicted path, nothing younger than `HALT` is in flight, and the operands in `L_EX` are the values of program order
(rules R32, R35, R130, R185, R190, R210). The invariant is the model's own, from rules of which R130 (nothing younger
than `HALT`), R190, R191 and R209 are the spec's inferences. -/
def Obligations.TickKeepsPipelineInv : Prop :=
  ∀ (c : Config) (s : CoreState c), s.PipelineInv → (tick s).PipelineInv

/-- One tick against one instruction (rule R250): where Execute holds an instruction and no older access faults, the
sequential state the pipeline stands for makes one step; in every other tick it does not change. The spec's inference:
the general statement of rule R250 is marked derived. The layers and the count: the model's choice, log entries 1 and
7. -/
def Obligations.TickRefinesSequentialStep : Prop :=
  ∀ (c : Config) (s : CoreState c), s.bootProblem = none → s.PipelineInv → s.stopped = false →
    ∃ t : CoreState c, step (s.onLayer .pipeline) = .next (t.onLayer .pipeline) ∧
      if s.lEX.valid = true ∧ s.drained.fault.kind = .none then
        ∃ u : CoreState c, step (s.seqView.onLayer .sequential) = .next (u.onLayer .sequential) ∧
          u.arch = t.seqView.arch
      else t.seqView.arch = s.seqView.arch

/-- No livelock (rules R163, R164): from every running state with the invariant in which no stop is pending and whose
next instruction is in the store, that instruction is in Execute after at most three ticks. The bound is the model's,
from the penalties of rule R163, which are the spec's inference. -/
def Obligations.ExecuteWithinThreeTicks : Prop :=
  ∀ (c : Config) (s : CoreState c), s.PipelineInv → s.stopped = false → s.drained.fault.kind = .none →
    s.drained.halted = false → (s.entryAt s.nextToExecute).isSome = true →
      ∃ k, k ≤ 3 ∧ (Nat.iterate tick k s).lEX.valid = true ∧ (Nat.iterate tick k s).lEX.pc = s.nextToExecute ∧
        (Nat.iterate tick k s).stopped = false

/-- Rule R234: in the tick in which `HALT` retires, all latches are empty, the control bits and the scoreboard are as
the rule says, and `pc` holds the address after the `HALT`; from then on nothing changes but by reset. The spec's
inference there ("all five latches are invalid, `fetch_enabled = 0`, `stall = 0`, …", marked derived). -/
def Obligations.HaltedStateIsClean : Prop :=
  ∀ (c : Config) (s : CoreState c), s.PipelineInv → s.stopped = false → (tick s).halted = true →
    (tick s).lF.valid = false ∧ (tick s).lD.valid = false ∧ (tick s).lEX.valid = false ∧
      (tick s).lMEM.valid = false ∧ (tick s).lWB.valid = false ∧ (tick s).fetchEnabled = false ∧
      (tick s).stall = false ∧ (tick s).redirectPending = false ∧ (∀ r : Reg, (tick s).busyBit r = false) ∧
      s.lWB.valid = true ∧ s.lWB.kind = .halt ∧ (tick s).pc = s.lWB.pc + 4 ∧ (tick s).fault.kind = .none ∧
      tick (tick s) = tick s ∧ ∀ st : Strategy, (((tick s).onLayer .pipeline).assertReset st).core.halted = false

/-- Rule R250, whole: for every program, strategy and parameters that may be started, (a) where the sequential machine
stops at `HALT` after `n + 1` instructions, (b) where it faults, and (c) where it does neither. The spec's inference:
"The general statement is the design goal of every rule", marked derived. The layer: the model's choice, log entry 1.
-/
def Obligations.SequentialEquivalence : Prop :=
  ∀ (c : Config) (p : List (Entry c.xlen)), (CoreState.resetWith c p).bootProblem = none →
    let s := (CoreState.resetWith c p).onLayer .pipeline
    let q := (CoreState.resetWith c p).onLayer .sequential
    (∀ (n : Nat) (u v : CoreState c), stepN n q = some (u.onLayer .sequential) → u.stopped = false →
        step (u.onLayer .sequential) = .next (v.onLayer .sequential) → v.halted = true →
          ∃ (k : Nat) (t : CoreState c), stepN k s = some (t.onLayer .pipeline) ∧ t.halted = true ∧
            t.retired = BitVec.ofNat c.counterBits (n + 1) ∧ t.x = v.x ∧ t.flags = v.flags ∧ t.dmem = v.dmem) ∧
      (∀ (n : Nat) (u v : CoreState c), stepN n q = some (u.onLayer .sequential) → u.stopped = false →
        step (u.onLayer .sequential) = .next (v.onLayer .sequential) → v.fault.kind ≠ .none →
          ∃ (k : Nat) (t : CoreState c), stepN k s = some (t.onLayer .pipeline) ∧ t.fault = v.fault ∧
            t.flags = v.flags ∧ t.dmem = v.dmem ∧ (wbStage t).x = v.x) ∧
      ((∀ (n : Nat) (u : CoreState c), stepN n q = some (u.onLayer .sequential) → u.stopped = false) →
        ∀ (k : Nat) (t : CoreState c), stepN k s = some (t.onLayer .pipeline) → t.stopped = false)

/-- Rule R192: the two strategies end alike. Where the run of one strategy stops, the run of the other stops too, with
the same end, fault, flags and memory, and the same registers and count of retired instructions once the pending
`L_WB` of a fault is applied (rule R230). The rule's claim on `cycles` is not stated here. The spec's inference,
marked derived; the comparison after the pending `L_WB` is log entry 16. -/
def Obligations.StrategiesAgree : Prop :=
  ∀ (c : Config) (p : List (Entry c.xlen)) (a b : Strategy) (k : Nat)
    (t : CoreState { c with strategy := a }),
    (CoreState.resetWith c p).bootProblem = none →
      stepN k ((CoreState.resetWith { c with strategy := a } p).onLayer .pipeline) = some (t.onLayer .pipeline) →
        t.stopped = true →
          ∃ (j : Nat) (u : CoreState { c with strategy := b }),
            stepN j ((CoreState.resetWith { c with strategy := b } p).onLayer .pipeline) =
                some (u.onLayer .pipeline) ∧
              u.halted = t.halted ∧ u.fault = t.fault ∧ u.flags = t.flags ∧ u.dmem = t.dmem ∧
              (wbStage u).x = (wbStage t).x ∧ (wbStage u).retired = (wbStage t).retired
end

