-- ==== Sys2Proof/Laws/State.lean ====
section
/-! SUPPORT. One lemma per field per named update of the state, each true by unfolding the update. -/

namespace Sys2Proof.Machine

variable {c : Config} (s : CoreState c)

/-! `setReg` -/

@[simp] theorem CoreState.setReg_x (r : Reg) (v : c.Value) : (s.setReg r v).x = s.x.set r.val v := rfl
@[simp] theorem CoreState.setReg_pc (r : Reg) (v : c.Value) : (s.setReg r v).pc = s.pc := rfl
@[simp] theorem CoreState.setReg_flags (r : Reg) (v : c.Value) : (s.setReg r v).flags = s.flags := rfl
@[simp] theorem CoreState.setReg_dmem (r : Reg) (v : c.Value) : (s.setReg r v).dmem = s.dmem := rfl
@[simp] theorem CoreState.setReg_imem (r : Reg) (v : c.Value) : (s.setReg r v).imem = s.imem := rfl
@[simp] theorem CoreState.setReg_cycles (r : Reg) (v : c.Value) : (s.setReg r v).cycles = s.cycles := rfl
@[simp] theorem CoreState.setReg_retired (r : Reg) (v : c.Value) : (s.setReg r v).retired = s.retired := rfl
@[simp] theorem CoreState.setReg_redirectPending (r : Reg) (v : c.Value) : (s.setReg r v).redirectPending = s.redirectPending := rfl
@[simp] theorem CoreState.setReg_halted (r : Reg) (v : c.Value) : (s.setReg r v).halted = s.halted := rfl
@[simp] theorem CoreState.setReg_fetchEnabled (r : Reg) (v : c.Value) : (s.setReg r v).fetchEnabled = s.fetchEnabled := rfl
@[simp] theorem CoreState.setReg_stall (r : Reg) (v : c.Value) : (s.setReg r v).stall = s.stall := rfl
@[simp] theorem CoreState.setReg_fault (r : Reg) (v : c.Value) : (s.setReg r v).fault = s.fault := rfl
@[simp] theorem CoreState.setReg_lF (r : Reg) (v : c.Value) : (s.setReg r v).lF = s.lF := rfl
@[simp] theorem CoreState.setReg_lD (r : Reg) (v : c.Value) : (s.setReg r v).lD = s.lD := rfl
@[simp] theorem CoreState.setReg_lEX (r : Reg) (v : c.Value) : (s.setReg r v).lEX = s.lEX := rfl
@[simp] theorem CoreState.setReg_lMEM (r : Reg) (v : c.Value) : (s.setReg r v).lMEM = s.lMEM := rfl
@[simp] theorem CoreState.setReg_lWB (r : Reg) (v : c.Value) : (s.setReg r v).lWB = s.lWB := rfl
@[simp] theorem CoreState.setReg_btb (r : Reg) (v : c.Value) : (s.setReg r v).btb = s.btb := rfl
@[simp] theorem CoreState.setReg_busy (r : Reg) (v : c.Value) : (s.setReg r v).busy = s.busy := rfl
/-! `setFlags` -/

@[simp] theorem CoreState.setFlags_x (f : Flags) : (s.setFlags f).x = s.x := rfl
@[simp] theorem CoreState.setFlags_pc (f : Flags) : (s.setFlags f).pc = s.pc := rfl
@[simp] theorem CoreState.setFlags_flags (f : Flags) : (s.setFlags f).flags = f := rfl
@[simp] theorem CoreState.setFlags_dmem (f : Flags) : (s.setFlags f).dmem = s.dmem := rfl
@[simp] theorem CoreState.setFlags_imem (f : Flags) : (s.setFlags f).imem = s.imem := rfl
@[simp] theorem CoreState.setFlags_cycles (f : Flags) : (s.setFlags f).cycles = s.cycles := rfl
@[simp] theorem CoreState.setFlags_retired (f : Flags) : (s.setFlags f).retired = s.retired := rfl
@[simp] theorem CoreState.setFlags_redirectPending (f : Flags) : (s.setFlags f).redirectPending = s.redirectPending := rfl
@[simp] theorem CoreState.setFlags_halted (f : Flags) : (s.setFlags f).halted = s.halted := rfl
@[simp] theorem CoreState.setFlags_fetchEnabled (f : Flags) : (s.setFlags f).fetchEnabled = s.fetchEnabled := rfl
@[simp] theorem CoreState.setFlags_stall (f : Flags) : (s.setFlags f).stall = s.stall := rfl
@[simp] theorem CoreState.setFlags_fault (f : Flags) : (s.setFlags f).fault = s.fault := rfl
@[simp] theorem CoreState.setFlags_lF (f : Flags) : (s.setFlags f).lF = s.lF := rfl
@[simp] theorem CoreState.setFlags_lD (f : Flags) : (s.setFlags f).lD = s.lD := rfl
@[simp] theorem CoreState.setFlags_lEX (f : Flags) : (s.setFlags f).lEX = s.lEX := rfl
@[simp] theorem CoreState.setFlags_lMEM (f : Flags) : (s.setFlags f).lMEM = s.lMEM := rfl
@[simp] theorem CoreState.setFlags_lWB (f : Flags) : (s.setFlags f).lWB = s.lWB := rfl
@[simp] theorem CoreState.setFlags_btb (f : Flags) : (s.setFlags f).btb = s.btb := rfl
@[simp] theorem CoreState.setFlags_busy (f : Flags) : (s.setFlags f).busy = s.busy := rfl
/-! `retireTo` -/

@[simp] theorem CoreState.retireTo_x (t : c.Value) : (s.retireTo t).x = s.x := rfl
@[simp] theorem CoreState.retireTo_pc (t : c.Value) : (s.retireTo t).pc = t := rfl
@[simp] theorem CoreState.retireTo_flags (t : c.Value) : (s.retireTo t).flags = s.flags := rfl
@[simp] theorem CoreState.retireTo_dmem (t : c.Value) : (s.retireTo t).dmem = s.dmem := rfl
@[simp] theorem CoreState.retireTo_imem (t : c.Value) : (s.retireTo t).imem = s.imem := rfl
@[simp] theorem CoreState.retireTo_cycles (t : c.Value) : (s.retireTo t).cycles = s.cycles := rfl
@[simp] theorem CoreState.retireTo_retired (t : c.Value) : (s.retireTo t).retired = s.retired + 1 := rfl
@[simp] theorem CoreState.retireTo_redirectPending (t : c.Value) : (s.retireTo t).redirectPending = s.redirectPending := rfl
@[simp] theorem CoreState.retireTo_halted (t : c.Value) : (s.retireTo t).halted = s.halted := rfl
@[simp] theorem CoreState.retireTo_fetchEnabled (t : c.Value) : (s.retireTo t).fetchEnabled = s.fetchEnabled := rfl
@[simp] theorem CoreState.retireTo_stall (t : c.Value) : (s.retireTo t).stall = s.stall := rfl
@[simp] theorem CoreState.retireTo_fault (t : c.Value) : (s.retireTo t).fault = s.fault := rfl
@[simp] theorem CoreState.retireTo_lF (t : c.Value) : (s.retireTo t).lF = s.lF := rfl
@[simp] theorem CoreState.retireTo_lD (t : c.Value) : (s.retireTo t).lD = s.lD := rfl
@[simp] theorem CoreState.retireTo_lEX (t : c.Value) : (s.retireTo t).lEX = s.lEX := rfl
@[simp] theorem CoreState.retireTo_lMEM (t : c.Value) : (s.retireTo t).lMEM = s.lMEM := rfl
@[simp] theorem CoreState.retireTo_lWB (t : c.Value) : (s.retireTo t).lWB = s.lWB := rfl
@[simp] theorem CoreState.retireTo_btb (t : c.Value) : (s.retireTo t).btb = s.btb := rfl
@[simp] theorem CoreState.retireTo_busy (t : c.Value) : (s.retireTo t).busy = s.busy := rfl
/-! `retireNext` -/

@[simp] theorem CoreState.retireNext_x : (s.retireNext).x = s.x := rfl
@[simp] theorem CoreState.retireNext_pc : (s.retireNext).pc = nextPc s.pc := rfl
@[simp] theorem CoreState.retireNext_flags : (s.retireNext).flags = s.flags := rfl
@[simp] theorem CoreState.retireNext_dmem : (s.retireNext).dmem = s.dmem := rfl
@[simp] theorem CoreState.retireNext_imem : (s.retireNext).imem = s.imem := rfl
@[simp] theorem CoreState.retireNext_cycles : (s.retireNext).cycles = s.cycles := rfl
@[simp] theorem CoreState.retireNext_retired : (s.retireNext).retired = s.retired + 1 := rfl
@[simp] theorem CoreState.retireNext_redirectPending : (s.retireNext).redirectPending = s.redirectPending := rfl
@[simp] theorem CoreState.retireNext_halted : (s.retireNext).halted = s.halted := rfl
@[simp] theorem CoreState.retireNext_fetchEnabled : (s.retireNext).fetchEnabled = s.fetchEnabled := rfl
@[simp] theorem CoreState.retireNext_stall : (s.retireNext).stall = s.stall := rfl
@[simp] theorem CoreState.retireNext_fault : (s.retireNext).fault = s.fault := rfl
@[simp] theorem CoreState.retireNext_lF : (s.retireNext).lF = s.lF := rfl
@[simp] theorem CoreState.retireNext_lD : (s.retireNext).lD = s.lD := rfl
@[simp] theorem CoreState.retireNext_lEX : (s.retireNext).lEX = s.lEX := rfl
@[simp] theorem CoreState.retireNext_lMEM : (s.retireNext).lMEM = s.lMEM := rfl
@[simp] theorem CoreState.retireNext_lWB : (s.retireNext).lWB = s.lWB := rfl
@[simp] theorem CoreState.retireNext_btb : (s.retireNext).btb = s.btb := rfl
@[simp] theorem CoreState.retireNext_busy : (s.retireNext).busy = s.busy := rfl
/-! `raise` -/

@[simp] theorem CoreState.raise_x (k : FaultKind) (p i : c.Value) : (s.raise k p i).x = s.x := rfl
@[simp] theorem CoreState.raise_pc (k : FaultKind) (p i : c.Value) : (s.raise k p i).pc = s.pc := rfl
@[simp] theorem CoreState.raise_flags (k : FaultKind) (p i : c.Value) : (s.raise k p i).flags = s.flags := rfl
@[simp] theorem CoreState.raise_dmem (k : FaultKind) (p i : c.Value) : (s.raise k p i).dmem = s.dmem := rfl
@[simp] theorem CoreState.raise_imem (k : FaultKind) (p i : c.Value) : (s.raise k p i).imem = s.imem := rfl
@[simp] theorem CoreState.raise_cycles (k : FaultKind) (p i : c.Value) : (s.raise k p i).cycles = s.cycles := rfl
@[simp] theorem CoreState.raise_retired (k : FaultKind) (p i : c.Value) : (s.raise k p i).retired = s.retired := rfl
@[simp] theorem CoreState.raise_redirectPending (k : FaultKind) (p i : c.Value) : (s.raise k p i).redirectPending = s.redirectPending := rfl
@[simp] theorem CoreState.raise_halted (k : FaultKind) (p i : c.Value) : (s.raise k p i).halted = s.halted := rfl
@[simp] theorem CoreState.raise_fetchEnabled (k : FaultKind) (p i : c.Value) : (s.raise k p i).fetchEnabled = s.fetchEnabled := rfl
@[simp] theorem CoreState.raise_stall (k : FaultKind) (p i : c.Value) : (s.raise k p i).stall = s.stall := rfl
@[simp] theorem CoreState.raise_fault (k : FaultKind) (p i : c.Value) : (s.raise k p i).fault = ⟨k, p, i⟩ := rfl
@[simp] theorem CoreState.raise_lF (k : FaultKind) (p i : c.Value) : (s.raise k p i).lF = s.lF := rfl
@[simp] theorem CoreState.raise_lD (k : FaultKind) (p i : c.Value) : (s.raise k p i).lD = s.lD := rfl
@[simp] theorem CoreState.raise_lEX (k : FaultKind) (p i : c.Value) : (s.raise k p i).lEX = s.lEX := rfl
@[simp] theorem CoreState.raise_lMEM (k : FaultKind) (p i : c.Value) : (s.raise k p i).lMEM = s.lMEM := rfl
@[simp] theorem CoreState.raise_lWB (k : FaultKind) (p i : c.Value) : (s.raise k p i).lWB = s.lWB := rfl
@[simp] theorem CoreState.raise_btb (k : FaultKind) (p i : c.Value) : (s.raise k p i).btb = s.btb := rfl
@[simp] theorem CoreState.raise_busy (k : FaultKind) (p i : c.Value) : (s.raise k p i).busy = s.busy := rfl
/-! `setBusy` -/

@[simp] theorem CoreState.setBusy_x (r : Reg) (b : Bool) : (s.setBusy r b).x = s.x := rfl
@[simp] theorem CoreState.setBusy_pc (r : Reg) (b : Bool) : (s.setBusy r b).pc = s.pc := rfl
@[simp] theorem CoreState.setBusy_flags (r : Reg) (b : Bool) : (s.setBusy r b).flags = s.flags := rfl
@[simp] theorem CoreState.setBusy_dmem (r : Reg) (b : Bool) : (s.setBusy r b).dmem = s.dmem := rfl
@[simp] theorem CoreState.setBusy_imem (r : Reg) (b : Bool) : (s.setBusy r b).imem = s.imem := rfl
@[simp] theorem CoreState.setBusy_cycles (r : Reg) (b : Bool) : (s.setBusy r b).cycles = s.cycles := rfl
@[simp] theorem CoreState.setBusy_retired (r : Reg) (b : Bool) : (s.setBusy r b).retired = s.retired := rfl
@[simp] theorem CoreState.setBusy_redirectPending (r : Reg) (b : Bool) : (s.setBusy r b).redirectPending = s.redirectPending := rfl
@[simp] theorem CoreState.setBusy_halted (r : Reg) (b : Bool) : (s.setBusy r b).halted = s.halted := rfl
@[simp] theorem CoreState.setBusy_fetchEnabled (r : Reg) (b : Bool) : (s.setBusy r b).fetchEnabled = s.fetchEnabled := rfl
@[simp] theorem CoreState.setBusy_stall (r : Reg) (b : Bool) : (s.setBusy r b).stall = s.stall := rfl
@[simp] theorem CoreState.setBusy_fault (r : Reg) (b : Bool) : (s.setBusy r b).fault = s.fault := rfl
@[simp] theorem CoreState.setBusy_lF (r : Reg) (b : Bool) : (s.setBusy r b).lF = s.lF := rfl
@[simp] theorem CoreState.setBusy_lD (r : Reg) (b : Bool) : (s.setBusy r b).lD = s.lD := rfl
@[simp] theorem CoreState.setBusy_lEX (r : Reg) (b : Bool) : (s.setBusy r b).lEX = s.lEX := rfl
@[simp] theorem CoreState.setBusy_lMEM (r : Reg) (b : Bool) : (s.setBusy r b).lMEM = s.lMEM := rfl
@[simp] theorem CoreState.setBusy_lWB (r : Reg) (b : Bool) : (s.setBusy r b).lWB = s.lWB := rfl
@[simp] theorem CoreState.setBusy_btb (r : Reg) (b : Bool) : (s.setBusy r b).btb = s.btb := rfl
@[simp] theorem CoreState.setBusy_busy (r : Reg) (b : Bool) : (s.setBusy r b).busy = s.busy.set r.val b := rfl
/-! `redirect` -/

@[simp] theorem CoreState.redirect_x (t : c.Value) : (s.redirect t).x = s.x := rfl
@[simp] theorem CoreState.redirect_pc (t : c.Value) : (s.redirect t).pc = t := rfl
@[simp] theorem CoreState.redirect_flags (t : c.Value) : (s.redirect t).flags = s.flags := rfl
@[simp] theorem CoreState.redirect_dmem (t : c.Value) : (s.redirect t).dmem = s.dmem := rfl
@[simp] theorem CoreState.redirect_imem (t : c.Value) : (s.redirect t).imem = s.imem := rfl
@[simp] theorem CoreState.redirect_cycles (t : c.Value) : (s.redirect t).cycles = s.cycles := rfl
@[simp] theorem CoreState.redirect_retired (t : c.Value) : (s.redirect t).retired = s.retired := rfl
@[simp] theorem CoreState.redirect_redirectPending (t : c.Value) : (s.redirect t).redirectPending = true := rfl
@[simp] theorem CoreState.redirect_halted (t : c.Value) : (s.redirect t).halted = s.halted := rfl
@[simp] theorem CoreState.redirect_fetchEnabled (t : c.Value) : (s.redirect t).fetchEnabled = true := rfl
@[simp] theorem CoreState.redirect_stall (t : c.Value) : (s.redirect t).stall = s.stall := rfl
@[simp] theorem CoreState.redirect_fault (t : c.Value) : (s.redirect t).fault = s.fault := rfl
@[simp] theorem CoreState.redirect_lF (t : c.Value) : (s.redirect t).lF = { s.lF with valid := false } := rfl
@[simp] theorem CoreState.redirect_lD (t : c.Value) : (s.redirect t).lD = { s.lD with valid := false } := rfl
@[simp] theorem CoreState.redirect_lEX (t : c.Value) : (s.redirect t).lEX = s.lEX := rfl
@[simp] theorem CoreState.redirect_lMEM (t : c.Value) : (s.redirect t).lMEM = s.lMEM := rfl
@[simp] theorem CoreState.redirect_lWB (t : c.Value) : (s.redirect t).lWB = s.lWB := rfl
@[simp] theorem CoreState.redirect_btb (t : c.Value) : (s.redirect t).btb = s.btb := rfl
@[simp] theorem CoreState.redirect_busy (t : c.Value) : (s.redirect t).busy = s.busy := rfl
/-! `passToWB` -/

@[simp] theorem CoreState.passToWB_x (l : Latch c.xlen) : (s.passToWB l).x = s.x := rfl
@[simp] theorem CoreState.passToWB_pc (l : Latch c.xlen) : (s.passToWB l).pc = s.pc := rfl
@[simp] theorem CoreState.passToWB_flags (l : Latch c.xlen) : (s.passToWB l).flags = s.flags := rfl
@[simp] theorem CoreState.passToWB_dmem (l : Latch c.xlen) : (s.passToWB l).dmem = s.dmem := rfl
@[simp] theorem CoreState.passToWB_imem (l : Latch c.xlen) : (s.passToWB l).imem = s.imem := rfl
@[simp] theorem CoreState.passToWB_cycles (l : Latch c.xlen) : (s.passToWB l).cycles = s.cycles := rfl
@[simp] theorem CoreState.passToWB_retired (l : Latch c.xlen) : (s.passToWB l).retired = s.retired := rfl
@[simp] theorem CoreState.passToWB_redirectPending (l : Latch c.xlen) : (s.passToWB l).redirectPending = s.redirectPending := rfl
@[simp] theorem CoreState.passToWB_halted (l : Latch c.xlen) : (s.passToWB l).halted = s.halted := rfl
@[simp] theorem CoreState.passToWB_fetchEnabled (l : Latch c.xlen) : (s.passToWB l).fetchEnabled = s.fetchEnabled := rfl
@[simp] theorem CoreState.passToWB_stall (l : Latch c.xlen) : (s.passToWB l).stall = s.stall := rfl
@[simp] theorem CoreState.passToWB_fault (l : Latch c.xlen) : (s.passToWB l).fault = s.fault := rfl
@[simp] theorem CoreState.passToWB_lF (l : Latch c.xlen) : (s.passToWB l).lF = s.lF := rfl
@[simp] theorem CoreState.passToWB_lD (l : Latch c.xlen) : (s.passToWB l).lD = s.lD := rfl
@[simp] theorem CoreState.passToWB_lEX (l : Latch c.xlen) : (s.passToWB l).lEX = s.lEX := rfl
@[simp] theorem CoreState.passToWB_lMEM (l : Latch c.xlen) : (s.passToWB l).lMEM = { l with valid := false } := rfl
@[simp] theorem CoreState.passToWB_lWB (l : Latch c.xlen) : (s.passToWB l).lWB = { l with valid := true } := rfl
@[simp] theorem CoreState.passToWB_btb (l : Latch c.xlen) : (s.passToWB l).btb = s.btb := rfl
@[simp] theorem CoreState.passToWB_busy (l : Latch c.xlen) : (s.passToWB l).busy = s.busy := rfl
/-! `passToMEM` -/

@[simp] theorem CoreState.passToMEM_x (l : Latch c.xlen) : (s.passToMEM l).x = s.x := rfl
@[simp] theorem CoreState.passToMEM_pc (l : Latch c.xlen) : (s.passToMEM l).pc = s.pc := rfl
@[simp] theorem CoreState.passToMEM_flags (l : Latch c.xlen) : (s.passToMEM l).flags = s.flags := rfl
@[simp] theorem CoreState.passToMEM_dmem (l : Latch c.xlen) : (s.passToMEM l).dmem = s.dmem := rfl
@[simp] theorem CoreState.passToMEM_imem (l : Latch c.xlen) : (s.passToMEM l).imem = s.imem := rfl
@[simp] theorem CoreState.passToMEM_cycles (l : Latch c.xlen) : (s.passToMEM l).cycles = s.cycles := rfl
@[simp] theorem CoreState.passToMEM_retired (l : Latch c.xlen) : (s.passToMEM l).retired = s.retired := rfl
@[simp] theorem CoreState.passToMEM_redirectPending (l : Latch c.xlen) : (s.passToMEM l).redirectPending = s.redirectPending := rfl
@[simp] theorem CoreState.passToMEM_halted (l : Latch c.xlen) : (s.passToMEM l).halted = s.halted := rfl
@[simp] theorem CoreState.passToMEM_fetchEnabled (l : Latch c.xlen) : (s.passToMEM l).fetchEnabled = s.fetchEnabled := rfl
@[simp] theorem CoreState.passToMEM_stall (l : Latch c.xlen) : (s.passToMEM l).stall = s.stall := rfl
@[simp] theorem CoreState.passToMEM_fault (l : Latch c.xlen) : (s.passToMEM l).fault = s.fault := rfl
@[simp] theorem CoreState.passToMEM_lF (l : Latch c.xlen) : (s.passToMEM l).lF = s.lF := rfl
@[simp] theorem CoreState.passToMEM_lD (l : Latch c.xlen) : (s.passToMEM l).lD = s.lD := rfl
@[simp] theorem CoreState.passToMEM_lEX (l : Latch c.xlen) : (s.passToMEM l).lEX = { l with valid := false } := rfl
@[simp] theorem CoreState.passToMEM_lMEM (l : Latch c.xlen) : (s.passToMEM l).lMEM = { l with valid := true } := rfl
@[simp] theorem CoreState.passToMEM_lWB (l : Latch c.xlen) : (s.passToMEM l).lWB = s.lWB := rfl
@[simp] theorem CoreState.passToMEM_btb (l : Latch c.xlen) : (s.passToMEM l).btb = s.btb := rfl
@[simp] theorem CoreState.passToMEM_busy (l : Latch c.xlen) : (s.passToMEM l).busy = s.busy := rfl
/-! `commitReg` -/

@[simp] theorem CoreState.commitReg_x (r : Reg) (v : c.Value) : (s.commitReg r v).x = s.x.set r.val v := rfl
@[simp] theorem CoreState.commitReg_pc (r : Reg) (v : c.Value) : (s.commitReg r v).pc = s.pc := rfl
@[simp] theorem CoreState.commitReg_flags (r : Reg) (v : c.Value) : (s.commitReg r v).flags = s.flags := rfl
@[simp] theorem CoreState.commitReg_dmem (r : Reg) (v : c.Value) : (s.commitReg r v).dmem = s.dmem := rfl
@[simp] theorem CoreState.commitReg_imem (r : Reg) (v : c.Value) : (s.commitReg r v).imem = s.imem := rfl
@[simp] theorem CoreState.commitReg_cycles (r : Reg) (v : c.Value) : (s.commitReg r v).cycles = s.cycles := rfl
@[simp] theorem CoreState.commitReg_retired (r : Reg) (v : c.Value) : (s.commitReg r v).retired = s.retired := rfl
@[simp] theorem CoreState.commitReg_redirectPending (r : Reg) (v : c.Value) : (s.commitReg r v).redirectPending = s.redirectPending := rfl
@[simp] theorem CoreState.commitReg_halted (r : Reg) (v : c.Value) : (s.commitReg r v).halted = s.halted := rfl
@[simp] theorem CoreState.commitReg_fetchEnabled (r : Reg) (v : c.Value) : (s.commitReg r v).fetchEnabled = s.fetchEnabled := rfl
@[simp] theorem CoreState.commitReg_stall (r : Reg) (v : c.Value) : (s.commitReg r v).stall = s.stall := rfl
@[simp] theorem CoreState.commitReg_fault (r : Reg) (v : c.Value) : (s.commitReg r v).fault = s.fault := rfl
@[simp] theorem CoreState.commitReg_lF (r : Reg) (v : c.Value) : (s.commitReg r v).lF = s.lF := rfl
@[simp] theorem CoreState.commitReg_lD (r : Reg) (v : c.Value) : (s.commitReg r v).lD = s.lD := rfl
@[simp] theorem CoreState.commitReg_lEX (r : Reg) (v : c.Value) : (s.commitReg r v).lEX = s.lEX := rfl
@[simp] theorem CoreState.commitReg_lMEM (r : Reg) (v : c.Value) : (s.commitReg r v).lMEM = s.lMEM := rfl
@[simp] theorem CoreState.commitReg_lWB (r : Reg) (v : c.Value) : (s.commitReg r v).lWB = s.lWB := rfl
@[simp] theorem CoreState.commitReg_btb (r : Reg) (v : c.Value) : (s.commitReg r v).btb = s.btb := rfl
@[simp] theorem CoreState.commitReg_busy (r : Reg) (v : c.Value) : (s.commitReg r v).busy = s.busy.set r.val false := rfl
/-! `updateHistory` -/

@[simp] theorem CoreState.updateHistory_x (i : Slot) (b : Bool) : (s.updateHistory i b).x = s.x := rfl
@[simp] theorem CoreState.updateHistory_pc (i : Slot) (b : Bool) : (s.updateHistory i b).pc = s.pc := rfl
@[simp] theorem CoreState.updateHistory_flags (i : Slot) (b : Bool) : (s.updateHistory i b).flags = s.flags := rfl
@[simp] theorem CoreState.updateHistory_dmem (i : Slot) (b : Bool) : (s.updateHistory i b).dmem = s.dmem := rfl
@[simp] theorem CoreState.updateHistory_imem (i : Slot) (b : Bool) : (s.updateHistory i b).imem = s.imem := rfl
@[simp] theorem CoreState.updateHistory_cycles (i : Slot) (b : Bool) : (s.updateHistory i b).cycles = s.cycles := rfl
@[simp] theorem CoreState.updateHistory_retired (i : Slot) (b : Bool) : (s.updateHistory i b).retired = s.retired := rfl
@[simp] theorem CoreState.updateHistory_redirectPending (i : Slot) (b : Bool) : (s.updateHistory i b).redirectPending = s.redirectPending := rfl
@[simp] theorem CoreState.updateHistory_halted (i : Slot) (b : Bool) : (s.updateHistory i b).halted = s.halted := rfl
@[simp] theorem CoreState.updateHistory_fetchEnabled (i : Slot) (b : Bool) : (s.updateHistory i b).fetchEnabled = s.fetchEnabled := rfl
@[simp] theorem CoreState.updateHistory_stall (i : Slot) (b : Bool) : (s.updateHistory i b).stall = s.stall := rfl
@[simp] theorem CoreState.updateHistory_fault (i : Slot) (b : Bool) : (s.updateHistory i b).fault = s.fault := rfl
@[simp] theorem CoreState.updateHistory_lF (i : Slot) (b : Bool) : (s.updateHistory i b).lF = s.lF := rfl
@[simp] theorem CoreState.updateHistory_lD (i : Slot) (b : Bool) : (s.updateHistory i b).lD = s.lD := rfl
@[simp] theorem CoreState.updateHistory_lEX (i : Slot) (b : Bool) : (s.updateHistory i b).lEX = s.lEX := rfl
@[simp] theorem CoreState.updateHistory_lMEM (i : Slot) (b : Bool) : (s.updateHistory i b).lMEM = s.lMEM := rfl
@[simp] theorem CoreState.updateHistory_lWB (i : Slot) (b : Bool) : (s.updateHistory i b).lWB = s.lWB := rfl
@[simp] theorem CoreState.updateHistory_btb (i : Slot) (b : Bool) : (s.updateHistory i b).btb = s.btb.set i.val (s.btb[i.val].train b) := rfl
@[simp] theorem CoreState.updateHistory_busy (i : Slot) (b : Bool) : (s.updateHistory i b).busy = s.busy := rfl
/-! `allocate` -/

@[simp] theorem CoreState.allocate_x (a : c.Value) (k : Kind) (t : c.Value) : (s.allocate a k t).x = s.x := rfl
@[simp] theorem CoreState.allocate_pc (a : c.Value) (k : Kind) (t : c.Value) : (s.allocate a k t).pc = s.pc := rfl
@[simp] theorem CoreState.allocate_flags (a : c.Value) (k : Kind) (t : c.Value) : (s.allocate a k t).flags = s.flags := rfl
@[simp] theorem CoreState.allocate_dmem (a : c.Value) (k : Kind) (t : c.Value) : (s.allocate a k t).dmem = s.dmem := rfl
@[simp] theorem CoreState.allocate_imem (a : c.Value) (k : Kind) (t : c.Value) : (s.allocate a k t).imem = s.imem := rfl
@[simp] theorem CoreState.allocate_cycles (a : c.Value) (k : Kind) (t : c.Value) : (s.allocate a k t).cycles = s.cycles := rfl
@[simp] theorem CoreState.allocate_retired (a : c.Value) (k : Kind) (t : c.Value) : (s.allocate a k t).retired = s.retired := rfl
@[simp] theorem CoreState.allocate_redirectPending (a : c.Value) (k : Kind) (t : c.Value) : (s.allocate a k t).redirectPending = s.redirectPending := rfl
@[simp] theorem CoreState.allocate_halted (a : c.Value) (k : Kind) (t : c.Value) : (s.allocate a k t).halted = s.halted := rfl
@[simp] theorem CoreState.allocate_fetchEnabled (a : c.Value) (k : Kind) (t : c.Value) : (s.allocate a k t).fetchEnabled = s.fetchEnabled := rfl
@[simp] theorem CoreState.allocate_stall (a : c.Value) (k : Kind) (t : c.Value) : (s.allocate a k t).stall = s.stall := rfl
@[simp] theorem CoreState.allocate_fault (a : c.Value) (k : Kind) (t : c.Value) : (s.allocate a k t).fault = s.fault := rfl
@[simp] theorem CoreState.allocate_lF (a : c.Value) (k : Kind) (t : c.Value) : (s.allocate a k t).lF = s.lF := rfl
@[simp] theorem CoreState.allocate_lD (a : c.Value) (k : Kind) (t : c.Value) : (s.allocate a k t).lD = s.lD := rfl
@[simp] theorem CoreState.allocate_lEX (a : c.Value) (k : Kind) (t : c.Value) : (s.allocate a k t).lEX = s.lEX := rfl
@[simp] theorem CoreState.allocate_lMEM (a : c.Value) (k : Kind) (t : c.Value) : (s.allocate a k t).lMEM = s.lMEM := rfl
@[simp] theorem CoreState.allocate_lWB (a : c.Value) (k : Kind) (t : c.Value) : (s.allocate a k t).lWB = s.lWB := rfl
@[simp] theorem CoreState.allocate_btb (a : c.Value) (k : Kind) (t : c.Value) : (s.allocate a k t).btb = s.btb.set s.victim.val ⟨true, a, (seed k).1, (seed k).2, t⟩ := rfl
@[simp] theorem CoreState.allocate_busy (a : c.Value) (k : Kind) (t : c.Value) : (s.allocate a k t).busy = s.busy := rfl
/-! `setCells` -/

@[simp] theorem CoreState.setCells_x (m : List (Nat × c.Value)) : (s.setCells m).x = s.x := rfl
@[simp] theorem CoreState.setCells_pc (m : List (Nat × c.Value)) : (s.setCells m).pc = s.pc := rfl
@[simp] theorem CoreState.setCells_flags (m : List (Nat × c.Value)) : (s.setCells m).flags = s.flags := rfl
@[simp] theorem CoreState.setCells_dmem (m : List (Nat × c.Value)) : (s.setCells m).dmem = m := rfl
@[simp] theorem CoreState.setCells_imem (m : List (Nat × c.Value)) : (s.setCells m).imem = s.imem := rfl
@[simp] theorem CoreState.setCells_cycles (m : List (Nat × c.Value)) : (s.setCells m).cycles = s.cycles := rfl
@[simp] theorem CoreState.setCells_retired (m : List (Nat × c.Value)) : (s.setCells m).retired = s.retired := rfl
@[simp] theorem CoreState.setCells_redirectPending (m : List (Nat × c.Value)) : (s.setCells m).redirectPending = s.redirectPending := rfl
@[simp] theorem CoreState.setCells_halted (m : List (Nat × c.Value)) : (s.setCells m).halted = s.halted := rfl
@[simp] theorem CoreState.setCells_fetchEnabled (m : List (Nat × c.Value)) : (s.setCells m).fetchEnabled = s.fetchEnabled := rfl
@[simp] theorem CoreState.setCells_stall (m : List (Nat × c.Value)) : (s.setCells m).stall = s.stall := rfl
@[simp] theorem CoreState.setCells_fault (m : List (Nat × c.Value)) : (s.setCells m).fault = s.fault := rfl
@[simp] theorem CoreState.setCells_lF (m : List (Nat × c.Value)) : (s.setCells m).lF = s.lF := rfl
@[simp] theorem CoreState.setCells_lD (m : List (Nat × c.Value)) : (s.setCells m).lD = s.lD := rfl
@[simp] theorem CoreState.setCells_lEX (m : List (Nat × c.Value)) : (s.setCells m).lEX = s.lEX := rfl
@[simp] theorem CoreState.setCells_lMEM (m : List (Nat × c.Value)) : (s.setCells m).lMEM = s.lMEM := rfl
@[simp] theorem CoreState.setCells_lWB (m : List (Nat × c.Value)) : (s.setCells m).lWB = s.lWB := rfl
@[simp] theorem CoreState.setCells_btb (m : List (Nat × c.Value)) : (s.setCells m).btb = s.btb := rfl
@[simp] theorem CoreState.setCells_busy (m : List (Nat × c.Value)) : (s.setCells m).busy = s.busy := rfl
/-! `setHalted` -/

@[simp] theorem CoreState.setHalted_x : (s.setHalted).x = s.x := rfl
@[simp] theorem CoreState.setHalted_pc : (s.setHalted).pc = s.pc := rfl
@[simp] theorem CoreState.setHalted_flags : (s.setHalted).flags = s.flags := rfl
@[simp] theorem CoreState.setHalted_dmem : (s.setHalted).dmem = s.dmem := rfl
@[simp] theorem CoreState.setHalted_imem : (s.setHalted).imem = s.imem := rfl
@[simp] theorem CoreState.setHalted_cycles : (s.setHalted).cycles = s.cycles := rfl
@[simp] theorem CoreState.setHalted_retired : (s.setHalted).retired = s.retired := rfl
@[simp] theorem CoreState.setHalted_redirectPending : (s.setHalted).redirectPending = s.redirectPending := rfl
@[simp] theorem CoreState.setHalted_halted : (s.setHalted).halted = true := rfl
@[simp] theorem CoreState.setHalted_fetchEnabled : (s.setHalted).fetchEnabled = s.fetchEnabled := rfl
@[simp] theorem CoreState.setHalted_stall : (s.setHalted).stall = s.stall := rfl
@[simp] theorem CoreState.setHalted_fault : (s.setHalted).fault = s.fault := rfl
@[simp] theorem CoreState.setHalted_lF : (s.setHalted).lF = s.lF := rfl
@[simp] theorem CoreState.setHalted_lD : (s.setHalted).lD = s.lD := rfl
@[simp] theorem CoreState.setHalted_lEX : (s.setHalted).lEX = s.lEX := rfl
@[simp] theorem CoreState.setHalted_lMEM : (s.setHalted).lMEM = s.lMEM := rfl
@[simp] theorem CoreState.setHalted_lWB : (s.setHalted).lWB = s.lWB := rfl
@[simp] theorem CoreState.setHalted_btb : (s.setHalted).btb = s.btb := rfl
@[simp] theorem CoreState.setHalted_busy : (s.setHalted).busy = s.busy := rfl
/-! `retireLatch` -/

@[simp] theorem CoreState.retireLatch_x (l : Latch c.xlen) : (s.retireLatch l).x = s.x := rfl
@[simp] theorem CoreState.retireLatch_pc (l : Latch c.xlen) : (s.retireLatch l).pc = s.pc := rfl
@[simp] theorem CoreState.retireLatch_flags (l : Latch c.xlen) : (s.retireLatch l).flags = s.flags := rfl
@[simp] theorem CoreState.retireLatch_dmem (l : Latch c.xlen) : (s.retireLatch l).dmem = s.dmem := rfl
@[simp] theorem CoreState.retireLatch_imem (l : Latch c.xlen) : (s.retireLatch l).imem = s.imem := rfl
@[simp] theorem CoreState.retireLatch_cycles (l : Latch c.xlen) : (s.retireLatch l).cycles = s.cycles := rfl
@[simp] theorem CoreState.retireLatch_retired (l : Latch c.xlen) : (s.retireLatch l).retired = s.retired + 1 := rfl
@[simp] theorem CoreState.retireLatch_redirectPending (l : Latch c.xlen) : (s.retireLatch l).redirectPending = s.redirectPending := rfl
@[simp] theorem CoreState.retireLatch_halted (l : Latch c.xlen) : (s.retireLatch l).halted = (s.halted || decide (l.kind = .halt)) := rfl
@[simp] theorem CoreState.retireLatch_fetchEnabled (l : Latch c.xlen) : (s.retireLatch l).fetchEnabled = s.fetchEnabled := rfl
@[simp] theorem CoreState.retireLatch_stall (l : Latch c.xlen) : (s.retireLatch l).stall = s.stall := rfl
@[simp] theorem CoreState.retireLatch_fault (l : Latch c.xlen) : (s.retireLatch l).fault = s.fault := rfl
@[simp] theorem CoreState.retireLatch_lF (l : Latch c.xlen) : (s.retireLatch l).lF = s.lF := rfl
@[simp] theorem CoreState.retireLatch_lD (l : Latch c.xlen) : (s.retireLatch l).lD = s.lD := rfl
@[simp] theorem CoreState.retireLatch_lEX (l : Latch c.xlen) : (s.retireLatch l).lEX = s.lEX := rfl
@[simp] theorem CoreState.retireLatch_lMEM (l : Latch c.xlen) : (s.retireLatch l).lMEM = s.lMEM := rfl
@[simp] theorem CoreState.retireLatch_lWB (l : Latch c.xlen) : (s.retireLatch l).lWB = { l with valid := false } := rfl
@[simp] theorem CoreState.retireLatch_btb (l : Latch c.xlen) : (s.retireLatch l).btb = s.btb := rfl
@[simp] theorem CoreState.retireLatch_busy (l : Latch c.xlen) : (s.retireLatch l).busy = s.busy := rfl
/-! `setLD` -/

@[simp] theorem CoreState.setLD_x (l : Latch c.xlen) : (s.setLD l).x = s.x := rfl
@[simp] theorem CoreState.setLD_pc (l : Latch c.xlen) : (s.setLD l).pc = s.pc := rfl
@[simp] theorem CoreState.setLD_flags (l : Latch c.xlen) : (s.setLD l).flags = s.flags := rfl
@[simp] theorem CoreState.setLD_dmem (l : Latch c.xlen) : (s.setLD l).dmem = s.dmem := rfl
@[simp] theorem CoreState.setLD_imem (l : Latch c.xlen) : (s.setLD l).imem = s.imem := rfl
@[simp] theorem CoreState.setLD_cycles (l : Latch c.xlen) : (s.setLD l).cycles = s.cycles := rfl
@[simp] theorem CoreState.setLD_retired (l : Latch c.xlen) : (s.setLD l).retired = s.retired := rfl
@[simp] theorem CoreState.setLD_redirectPending (l : Latch c.xlen) : (s.setLD l).redirectPending = s.redirectPending := rfl
@[simp] theorem CoreState.setLD_halted (l : Latch c.xlen) : (s.setLD l).halted = s.halted := rfl
@[simp] theorem CoreState.setLD_fetchEnabled (l : Latch c.xlen) : (s.setLD l).fetchEnabled = s.fetchEnabled := rfl
@[simp] theorem CoreState.setLD_stall (l : Latch c.xlen) : (s.setLD l).stall = s.stall := rfl
@[simp] theorem CoreState.setLD_fault (l : Latch c.xlen) : (s.setLD l).fault = s.fault := rfl
@[simp] theorem CoreState.setLD_lF (l : Latch c.xlen) : (s.setLD l).lF = s.lF := rfl
@[simp] theorem CoreState.setLD_lD (l : Latch c.xlen) : (s.setLD l).lD = l := rfl
@[simp] theorem CoreState.setLD_lEX (l : Latch c.xlen) : (s.setLD l).lEX = s.lEX := rfl
@[simp] theorem CoreState.setLD_lMEM (l : Latch c.xlen) : (s.setLD l).lMEM = s.lMEM := rfl
@[simp] theorem CoreState.setLD_lWB (l : Latch c.xlen) : (s.setLD l).lWB = s.lWB := rfl
@[simp] theorem CoreState.setLD_btb (l : Latch c.xlen) : (s.setLD l).btb = s.btb := rfl
@[simp] theorem CoreState.setLD_busy (l : Latch c.xlen) : (s.setLD l).busy = s.busy := rfl
/-! `setStall` -/

@[simp] theorem CoreState.setStall_x (b : Bool) : (s.setStall b).x = s.x := rfl
@[simp] theorem CoreState.setStall_pc (b : Bool) : (s.setStall b).pc = s.pc := rfl
@[simp] theorem CoreState.setStall_flags (b : Bool) : (s.setStall b).flags = s.flags := rfl
@[simp] theorem CoreState.setStall_dmem (b : Bool) : (s.setStall b).dmem = s.dmem := rfl
@[simp] theorem CoreState.setStall_imem (b : Bool) : (s.setStall b).imem = s.imem := rfl
@[simp] theorem CoreState.setStall_cycles (b : Bool) : (s.setStall b).cycles = s.cycles := rfl
@[simp] theorem CoreState.setStall_retired (b : Bool) : (s.setStall b).retired = s.retired := rfl
@[simp] theorem CoreState.setStall_redirectPending (b : Bool) : (s.setStall b).redirectPending = s.redirectPending := rfl
@[simp] theorem CoreState.setStall_halted (b : Bool) : (s.setStall b).halted = s.halted := rfl
@[simp] theorem CoreState.setStall_fetchEnabled (b : Bool) : (s.setStall b).fetchEnabled = s.fetchEnabled := rfl
@[simp] theorem CoreState.setStall_stall (b : Bool) : (s.setStall b).stall = b := rfl
@[simp] theorem CoreState.setStall_fault (b : Bool) : (s.setStall b).fault = s.fault := rfl
@[simp] theorem CoreState.setStall_lF (b : Bool) : (s.setStall b).lF = s.lF := rfl
@[simp] theorem CoreState.setStall_lD (b : Bool) : (s.setStall b).lD = s.lD := rfl
@[simp] theorem CoreState.setStall_lEX (b : Bool) : (s.setStall b).lEX = s.lEX := rfl
@[simp] theorem CoreState.setStall_lMEM (b : Bool) : (s.setStall b).lMEM = s.lMEM := rfl
@[simp] theorem CoreState.setStall_lWB (b : Bool) : (s.setStall b).lWB = s.lWB := rfl
@[simp] theorem CoreState.setStall_btb (b : Bool) : (s.setStall b).btb = s.btb := rfl
@[simp] theorem CoreState.setStall_busy (b : Bool) : (s.setStall b).busy = s.busy := rfl
/-! `passToEX` -/

@[simp] theorem CoreState.passToEX_x (l : Latch c.xlen) : (s.passToEX l).x = s.x := rfl
@[simp] theorem CoreState.passToEX_pc (l : Latch c.xlen) : (s.passToEX l).pc = s.pc := rfl
@[simp] theorem CoreState.passToEX_flags (l : Latch c.xlen) : (s.passToEX l).flags = s.flags := rfl
@[simp] theorem CoreState.passToEX_dmem (l : Latch c.xlen) : (s.passToEX l).dmem = s.dmem := rfl
@[simp] theorem CoreState.passToEX_imem (l : Latch c.xlen) : (s.passToEX l).imem = s.imem := rfl
@[simp] theorem CoreState.passToEX_cycles (l : Latch c.xlen) : (s.passToEX l).cycles = s.cycles := rfl
@[simp] theorem CoreState.passToEX_retired (l : Latch c.xlen) : (s.passToEX l).retired = s.retired := rfl
@[simp] theorem CoreState.passToEX_redirectPending (l : Latch c.xlen) : (s.passToEX l).redirectPending = s.redirectPending := rfl
@[simp] theorem CoreState.passToEX_halted (l : Latch c.xlen) : (s.passToEX l).halted = s.halted := rfl
@[simp] theorem CoreState.passToEX_fetchEnabled (l : Latch c.xlen) : (s.passToEX l).fetchEnabled = (s.fetchEnabled && decide (l.kind ≠ .halt)) := rfl
@[simp] theorem CoreState.passToEX_stall (l : Latch c.xlen) : (s.passToEX l).stall = s.stall := rfl
@[simp] theorem CoreState.passToEX_fault (l : Latch c.xlen) : (s.passToEX l).fault = s.fault := rfl
@[simp] theorem CoreState.passToEX_lF (l : Latch c.xlen) : (s.passToEX l).lF = s.lF := rfl
@[simp] theorem CoreState.passToEX_lD (l : Latch c.xlen) : (s.passToEX l).lD = { l with valid := false } := rfl
@[simp] theorem CoreState.passToEX_lEX (l : Latch c.xlen) : (s.passToEX l).lEX = { l with valid := true } := rfl
@[simp] theorem CoreState.passToEX_lMEM (l : Latch c.xlen) : (s.passToEX l).lMEM = s.lMEM := rfl
@[simp] theorem CoreState.passToEX_lWB (l : Latch c.xlen) : (s.passToEX l).lWB = s.lWB := rfl
@[simp] theorem CoreState.passToEX_btb (l : Latch c.xlen) : (s.passToEX l).btb = s.btb := rfl
@[simp] theorem CoreState.passToEX_busy (l : Latch c.xlen) : (s.passToEX l).busy = s.busy := rfl
/-! `setLF` -/

@[simp] theorem CoreState.setLF_x (l : Latch c.xlen) : (s.setLF l).x = s.x := rfl
@[simp] theorem CoreState.setLF_pc (l : Latch c.xlen) : (s.setLF l).pc = s.pc := rfl
@[simp] theorem CoreState.setLF_flags (l : Latch c.xlen) : (s.setLF l).flags = s.flags := rfl
@[simp] theorem CoreState.setLF_dmem (l : Latch c.xlen) : (s.setLF l).dmem = s.dmem := rfl
@[simp] theorem CoreState.setLF_imem (l : Latch c.xlen) : (s.setLF l).imem = s.imem := rfl
@[simp] theorem CoreState.setLF_cycles (l : Latch c.xlen) : (s.setLF l).cycles = s.cycles := rfl
@[simp] theorem CoreState.setLF_retired (l : Latch c.xlen) : (s.setLF l).retired = s.retired := rfl
@[simp] theorem CoreState.setLF_redirectPending (l : Latch c.xlen) : (s.setLF l).redirectPending = s.redirectPending := rfl
@[simp] theorem CoreState.setLF_halted (l : Latch c.xlen) : (s.setLF l).halted = s.halted := rfl
@[simp] theorem CoreState.setLF_fetchEnabled (l : Latch c.xlen) : (s.setLF l).fetchEnabled = s.fetchEnabled := rfl
@[simp] theorem CoreState.setLF_stall (l : Latch c.xlen) : (s.setLF l).stall = s.stall := rfl
@[simp] theorem CoreState.setLF_fault (l : Latch c.xlen) : (s.setLF l).fault = s.fault := rfl
@[simp] theorem CoreState.setLF_lF (l : Latch c.xlen) : (s.setLF l).lF = l := rfl
@[simp] theorem CoreState.setLF_lD (l : Latch c.xlen) : (s.setLF l).lD = s.lD := rfl
@[simp] theorem CoreState.setLF_lEX (l : Latch c.xlen) : (s.setLF l).lEX = s.lEX := rfl
@[simp] theorem CoreState.setLF_lMEM (l : Latch c.xlen) : (s.setLF l).lMEM = s.lMEM := rfl
@[simp] theorem CoreState.setLF_lWB (l : Latch c.xlen) : (s.setLF l).lWB = s.lWB := rfl
@[simp] theorem CoreState.setLF_btb (l : Latch c.xlen) : (s.setLF l).btb = s.btb := rfl
@[simp] theorem CoreState.setLF_busy (l : Latch c.xlen) : (s.setLF l).busy = s.busy := rfl
/-! `clearBubble` -/

@[simp] theorem CoreState.clearBubble_x : (s.clearBubble).x = s.x := rfl
@[simp] theorem CoreState.clearBubble_pc : (s.clearBubble).pc = s.pc := rfl
@[simp] theorem CoreState.clearBubble_flags : (s.clearBubble).flags = s.flags := rfl
@[simp] theorem CoreState.clearBubble_dmem : (s.clearBubble).dmem = s.dmem := rfl
@[simp] theorem CoreState.clearBubble_imem : (s.clearBubble).imem = s.imem := rfl
@[simp] theorem CoreState.clearBubble_cycles : (s.clearBubble).cycles = s.cycles := rfl
@[simp] theorem CoreState.clearBubble_retired : (s.clearBubble).retired = s.retired := rfl
@[simp] theorem CoreState.clearBubble_redirectPending : (s.clearBubble).redirectPending = false := rfl
@[simp] theorem CoreState.clearBubble_halted : (s.clearBubble).halted = s.halted := rfl
@[simp] theorem CoreState.clearBubble_fetchEnabled : (s.clearBubble).fetchEnabled = s.fetchEnabled := rfl
@[simp] theorem CoreState.clearBubble_stall : (s.clearBubble).stall = s.stall := rfl
@[simp] theorem CoreState.clearBubble_fault : (s.clearBubble).fault = s.fault := rfl
@[simp] theorem CoreState.clearBubble_lF : (s.clearBubble).lF = s.lF := rfl
@[simp] theorem CoreState.clearBubble_lD : (s.clearBubble).lD = s.lD := rfl
@[simp] theorem CoreState.clearBubble_lEX : (s.clearBubble).lEX = s.lEX := rfl
@[simp] theorem CoreState.clearBubble_lMEM : (s.clearBubble).lMEM = s.lMEM := rfl
@[simp] theorem CoreState.clearBubble_lWB : (s.clearBubble).lWB = s.lWB := rfl
@[simp] theorem CoreState.clearBubble_btb : (s.clearBubble).btb = s.btb := rfl
@[simp] theorem CoreState.clearBubble_busy : (s.clearBubble).busy = s.busy := rfl
/-! `passToD` -/

@[simp] theorem CoreState.passToD_x (l : Latch c.xlen) (t : c.Value) : (s.passToD l t).x = s.x := rfl
@[simp] theorem CoreState.passToD_pc (l : Latch c.xlen) (t : c.Value) : (s.passToD l t).pc = t := rfl
@[simp] theorem CoreState.passToD_flags (l : Latch c.xlen) (t : c.Value) : (s.passToD l t).flags = s.flags := rfl
@[simp] theorem CoreState.passToD_dmem (l : Latch c.xlen) (t : c.Value) : (s.passToD l t).dmem = s.dmem := rfl
@[simp] theorem CoreState.passToD_imem (l : Latch c.xlen) (t : c.Value) : (s.passToD l t).imem = s.imem := rfl
@[simp] theorem CoreState.passToD_cycles (l : Latch c.xlen) (t : c.Value) : (s.passToD l t).cycles = s.cycles := rfl
@[simp] theorem CoreState.passToD_retired (l : Latch c.xlen) (t : c.Value) : (s.passToD l t).retired = s.retired := rfl
@[simp] theorem CoreState.passToD_redirectPending (l : Latch c.xlen) (t : c.Value) : (s.passToD l t).redirectPending = s.redirectPending := rfl
@[simp] theorem CoreState.passToD_halted (l : Latch c.xlen) (t : c.Value) : (s.passToD l t).halted = s.halted := rfl
@[simp] theorem CoreState.passToD_fetchEnabled (l : Latch c.xlen) (t : c.Value) : (s.passToD l t).fetchEnabled = s.fetchEnabled := rfl
@[simp] theorem CoreState.passToD_stall (l : Latch c.xlen) (t : c.Value) : (s.passToD l t).stall = s.stall := rfl
@[simp] theorem CoreState.passToD_fault (l : Latch c.xlen) (t : c.Value) : (s.passToD l t).fault = s.fault := rfl
@[simp] theorem CoreState.passToD_lF (l : Latch c.xlen) (t : c.Value) : (s.passToD l t).lF = l := rfl
@[simp] theorem CoreState.passToD_lD (l : Latch c.xlen) (t : c.Value) : (s.passToD l t).lD = l := rfl
@[simp] theorem CoreState.passToD_lEX (l : Latch c.xlen) (t : c.Value) : (s.passToD l t).lEX = s.lEX := rfl
@[simp] theorem CoreState.passToD_lMEM (l : Latch c.xlen) (t : c.Value) : (s.passToD l t).lMEM = s.lMEM := rfl
@[simp] theorem CoreState.passToD_lWB (l : Latch c.xlen) (t : c.Value) : (s.passToD l t).lWB = s.lWB := rfl
@[simp] theorem CoreState.passToD_btb (l : Latch c.xlen) (t : c.Value) : (s.passToD l t).btb = s.btb := rfl
@[simp] theorem CoreState.passToD_busy (l : Latch c.xlen) (t : c.Value) : (s.passToD l t).busy = s.busy := rfl
/-! `fetchIdle` -/

@[simp] theorem CoreState.fetchIdle_x : (s.fetchIdle).x = s.x := rfl
@[simp] theorem CoreState.fetchIdle_pc : (s.fetchIdle).pc = s.pc := rfl
@[simp] theorem CoreState.fetchIdle_flags : (s.fetchIdle).flags = s.flags := rfl
@[simp] theorem CoreState.fetchIdle_dmem : (s.fetchIdle).dmem = s.dmem := rfl
@[simp] theorem CoreState.fetchIdle_imem : (s.fetchIdle).imem = s.imem := rfl
@[simp] theorem CoreState.fetchIdle_cycles : (s.fetchIdle).cycles = s.cycles := rfl
@[simp] theorem CoreState.fetchIdle_retired : (s.fetchIdle).retired = s.retired := rfl
@[simp] theorem CoreState.fetchIdle_redirectPending : (s.fetchIdle).redirectPending = s.redirectPending := rfl
@[simp] theorem CoreState.fetchIdle_halted : (s.fetchIdle).halted = s.halted := rfl
@[simp] theorem CoreState.fetchIdle_fetchEnabled : (s.fetchIdle).fetchEnabled = s.fetchEnabled := rfl
@[simp] theorem CoreState.fetchIdle_stall : (s.fetchIdle).stall = s.stall := rfl
@[simp] theorem CoreState.fetchIdle_fault : (s.fetchIdle).fault = s.fault := rfl
@[simp] theorem CoreState.fetchIdle_lF : (s.fetchIdle).lF = { s.lF with valid := false } := rfl
@[simp] theorem CoreState.fetchIdle_lD : (s.fetchIdle).lD = s.lD := rfl
@[simp] theorem CoreState.fetchIdle_lEX : (s.fetchIdle).lEX = s.lEX := rfl
@[simp] theorem CoreState.fetchIdle_lMEM : (s.fetchIdle).lMEM = s.lMEM := rfl
@[simp] theorem CoreState.fetchIdle_lWB : (s.fetchIdle).lWB = s.lWB := rfl
@[simp] theorem CoreState.fetchIdle_btb : (s.fetchIdle).btb = s.btb := rfl
@[simp] theorem CoreState.fetchIdle_busy : (s.fetchIdle).busy = s.busy := rfl
/-! `countCycle` -/

@[simp] theorem CoreState.countCycle_x : (s.countCycle).x = s.x := rfl
@[simp] theorem CoreState.countCycle_pc : (s.countCycle).pc = s.pc := rfl
@[simp] theorem CoreState.countCycle_flags : (s.countCycle).flags = s.flags := rfl
@[simp] theorem CoreState.countCycle_dmem : (s.countCycle).dmem = s.dmem := rfl
@[simp] theorem CoreState.countCycle_imem : (s.countCycle).imem = s.imem := rfl
@[simp] theorem CoreState.countCycle_cycles : (s.countCycle).cycles = s.cycles + 1 := rfl
@[simp] theorem CoreState.countCycle_retired : (s.countCycle).retired = s.retired := rfl
@[simp] theorem CoreState.countCycle_redirectPending : (s.countCycle).redirectPending = s.redirectPending := rfl
@[simp] theorem CoreState.countCycle_halted : (s.countCycle).halted = s.halted := rfl
@[simp] theorem CoreState.countCycle_fetchEnabled : (s.countCycle).fetchEnabled = s.fetchEnabled := rfl
@[simp] theorem CoreState.countCycle_stall : (s.countCycle).stall = s.stall := rfl
@[simp] theorem CoreState.countCycle_fault : (s.countCycle).fault = s.fault := rfl
@[simp] theorem CoreState.countCycle_lF : (s.countCycle).lF = s.lF := rfl
@[simp] theorem CoreState.countCycle_lD : (s.countCycle).lD = s.lD := rfl
@[simp] theorem CoreState.countCycle_lEX : (s.countCycle).lEX = s.lEX := rfl
@[simp] theorem CoreState.countCycle_lMEM : (s.countCycle).lMEM = s.lMEM := rfl
@[simp] theorem CoreState.countCycle_lWB : (s.countCycle).lWB = s.lWB := rfl
@[simp] theorem CoreState.countCycle_btb : (s.countCycle).btb = s.btb := rfl
@[simp] theorem CoreState.countCycle_busy : (s.countCycle).busy = s.busy := rfl
end Sys2Proof.Machine
end

