-- ==== Sys2Proof/Laws/Btb.lean ====
section
/-! SUPPORT. What the operations of the branch-target buffer can do (spec 45_branch_predictor.md rules R201, R204,
R206). -/

namespace Sys2Proof.Machine

variable {c : Config} {s t : CoreState c}

/-- The scan order names every slot. -/
theorem mem_slots (i : Slot) : i ∈ slots := by
  revert i
  decide

/-- A hit is a valid entry with the address as its tag. -/
theorem CoreState.lookup_some {a : c.Value} {i : Slot} (h : s.lookup a = some i) :
    s.btb[i.val].valid = true ∧ s.btb[i.val].tag = a := by
  simpa using List.find?_some h

/-- A miss says that no valid entry has the address as its tag. -/
theorem CoreState.lookup_eq_none {a : c.Value} :
    s.lookup a = none ↔ ∀ i : Slot, s.btb[i.val].valid = true → s.btb[i.val].tag ≠ a := by
  simp [CoreState.lookup, List.find?_eq_none, mem_slots]

/-- The lookup reads the table only. -/
theorem CoreState.lookup_congr (h : t.btb = s.btb) (a : c.Value) : t.lookup a = s.lookup a := by
  simp only [CoreState.lookup, h]

/-- The victim, slot by slot. -/
theorem CoreState.victim_eq (s : CoreState c) :
    s.victim =
      if s.btb[0].valid = false then 0 else if s.btb[1].valid = false then 1
      else if s.btb[2].valid = false then 2 else if s.btb[3].valid = false then 3 else 0 := by
  unfold CoreState.victim slots
  cases h0 : s.btb[0].valid <;> cases h1 : s.btb[1].valid <;> cases h2 : s.btb[2].valid <;>
    cases h3 : s.btb[3].valid <;> simp_all

/-- The victim is the first invalid slot, and slot 0 of a full table. -/
theorem CoreState.victim_cases (s : CoreState c) :
    (s.btb[s.victim.val].valid = false ∧ ∀ j : Slot, j < s.victim → s.btb[j.val].valid = true) ∨
      ((∀ i : Slot, s.btb[i.val].valid = true) ∧ s.victim = 0) := by
  have all (p : Slot → Prop) (h0 : p 0) (h1 : p 1) (h2 : p 2) (h3 : p 3) (i : Slot) : p i := by
    fin_cases i <;> assumption
  suffices h : ∀ v : Slot, v = s.victim →
      (s.btb[v.val].valid = false ∧ ∀ j : Slot, j < v → s.btb[j.val].valid = true) ∨
        ((∀ i : Slot, s.btb[i.val].valid = true) ∧ v = 0) from h _ rfl
  rintro v hv
  rw [s.victim_eq] at hv
  split_ifs at hv with h0 h1 h2 h3
  all_goals subst hv
  · exact .inl ⟨h0, fun j hj => absurd hj (Fin.not_lt_zero j)⟩
  · refine .inl ⟨h1, all _ (fun _ => by simpa using h0) ?_ ?_ ?_⟩ <;> exact fun h => absurd h (by decide)
  · refine .inl ⟨h2, all _ (fun _ => by simpa using h0) (fun _ => by simpa using h1) ?_ ?_⟩ <;> exact fun h => absurd h (by decide)
  · refine .inl ⟨h3, all _ (fun _ => by simpa using h0) (fun _ => by simpa using h1) (fun _ => by simpa using h2) ?_⟩
    exact fun h => absurd h (by decide)
  · exact .inr ⟨all _ (by simpa using h0) (by simpa using h1) (by simpa using h2) (by simpa using h3), rfl⟩

/-- An entry after an allocation: the victim is the new entry, the others stay. -/
theorem CoreState.allocate_entry (s : CoreState c) (a : c.Value) (k : Kind) (u : c.Value) (i : Slot) :
    (s.allocate a k u).btb[i.val] =
      if i = s.victim then ⟨true, a, (seed k).1, (seed k).2, u⟩ else s.btb[i.val] := by
  simp only [CoreState.allocate, Vector.getElem_set, Fin.ext_iff, eq_comm]

/-- Training keeps the valid bit, the tag and the target. -/
@[simp] theorem BtbEntry.train_valid (e : BtbEntry c.xlen) (b : Bool) : (e.train b).valid = e.valid := rfl
@[simp] theorem BtbEntry.train_tag (e : BtbEntry c.xlen) (b : Bool) : (e.train b).tag = e.tag := rfl
@[simp] theorem BtbEntry.train_target (e : BtbEntry c.xlen) (b : Bool) : (e.train b).target = e.target := rfl

/-- An entry after a history update: one slot is trained, the others stay. -/
theorem CoreState.updateHistory_entry (s : CoreState c) (j : Slot) (b : Bool) (i : Slot) :
    (s.updateHistory j b).btb[i.val] = if i = j then s.btb[i.val].train b else s.btb[i.val] := by
  simp only [CoreState.updateHistory, Vector.getElem_set, Fin.ext_iff]
  split_ifs with h1 h2 h2
  · have : i = j := Fin.ext h1.symm
    subst this
    rfl
  · exact absurd h1.symm h2
  · exact absurd h2.symm h1
  · rfl

theorem CoreState.updateHistory_valid (s : CoreState c) (j : Slot) (b : Bool) (i : Slot) :
    (s.updateHistory j b).btb[i.val].valid = s.btb[i.val].valid := by
  rw [CoreState.updateHistory_entry]
  split_ifs <;> rfl

theorem CoreState.updateHistory_tag (s : CoreState c) (j : Slot) (b : Bool) (i : Slot) :
    (s.updateHistory j b).btb[i.val].tag = s.btb[i.val].tag := by
  rw [CoreState.updateHistory_entry]
  split_ifs <;> rfl

theorem CoreState.updateHistory_target (s : CoreState c) (j : Slot) (b : Bool) (i : Slot) :
    (s.updateHistory j b).btb[i.val].target = s.btb[i.val].target := by
  rw [CoreState.updateHistory_entry]
  split_ifs <;> rfl

end Sys2Proof.Machine
end

