-- ==== Sys2Proof/Laws/Decode.lean ====
section
/-! SUPPORT. The fields of a canonical word, and records against instructions. -/

namespace Sys2Proof

@[simp] theorem regOfBits_bitsOfReg (r : Reg) : regOfBits (bitsOfReg r) = r := by
  apply Fin.ext
  simp only [regOfBits, bitsOfReg, BitVec.toNat_ofNat]
  omega

@[simp] theorem bitsOfReg_regOfBits (b : BitVec 5) : bitsOfReg (regOfBits b) = b := by
  apply BitVec.eq_of_toNat_eq
  simp only [regOfBits, bitsOfReg, BitVec.toNat_ofNat]
  omega

/-- A number in the range of an `n`-bit field is the number its `n` bits hold (rule R73). -/
theorem toInt_ofInt_of_immFits {n : Nat} {imm : Int} (h : immFits n imm = true) : (BitVec.ofInt n imm).toInt = imm := by
  simp only [immFits, Bool.and_eq_true, decide_eq_true_eq] at h
  rw [BitVec.toInt_ofInt]
  exact Int.bmod_eq_of_le_mul_two (by push_cast; omega) (by push_cast; omega)

/-- An `n`-bit field holds a number in its range. -/
theorem immFits_toInt {n : Nat} (v : BitVec n) : immFits n v.toInt = true := by
  have h1 := BitVec.le_two_mul_toInt (x := v)
  have h2 := BitVec.two_mul_toInt_lt (x := v)
  simp only [immFits, Bool.and_eq_true, decide_eq_true_eq]
  exact ⟨h1, h2⟩

/-- A field of `b` bits is in the range of any wider one. -/
theorem immFits_mono {b n : Nat} (hbn : b ≤ n) {imm : Int} (h : immFits b imm = true) : immFits n imm = true := by
  have hp : (2 : Int) ^ b ≤ 2 ^ n := pow_le_pow_right₀ (by norm_num) hbn
  simp only [immFits, Bool.and_eq_true, decide_eq_true_eq] at h ⊢
  omega

/-- Sign extension keeps the number (rule R73), so a sign-extended record is the same instruction. -/
theorem Record.instr?_sext {b n : Nat} (h : b ≤ n) (r : Record b) : (r.sext n).instr? = r.instr? := by
  cases hk : r.kind <;> simp [Record.instr?, Record.sext, hk, BitVec.toInt_signExtend_of_le h]

/-- The kind of an instruction's record has an opcode. -/
theorem Instr.opcode_isSome (i : Instr) : i.kind.opcode.isSome = true := by cases i <;> rfl

/-- An opcode number gives its kind back. -/
theorem Kind.ofOpcode_opcode {k : Kind} {n : Nat} (h : k.opcode = some n) : Kind.ofOpcode n = k := by
  cases k <;> simp [Kind.opcode] at h <;> subst h <;> rfl

/-- A reserved number is the kind `INVALID` (rule R76). -/
theorem Kind.ofOpcode_reserved {n : Nat} (h : 26 ≤ n) : Kind.ofOpcode n = .invalid := by
  have : opcodeMap[n]? = none := List.getElem?_eq_none (by simpa [opcodeMap] using h)
  simp [Kind.ofOpcode, this]

/-- A record is no instruction exactly when its kind is `INVALID`. -/
theorem Record.instr?_eq_none {n : Nat} {r : Record n} : r.instr? = none ↔ r.kind = .invalid := by
  unfold Record.instr?
  cases h : r.kind <;> simp

@[simp] theorem Record.ofFormat_kind (b : Nat) (k : Kind) (w : Word) (f : Format) :
    (Record.ofFormat b k w f).kind = k := by
  cases f <;> rfl

@[simp] theorem Record.ofWord_kind (b : Nat) (w : Word) :
    (Record.ofWord b w).kind = Kind.ofOpcode (fieldOp w).toNat := by
  simp [Record.ofWord]

/-- What the decoder can answer: the instruction of the word's record, or the reserved opcode by name. -/
theorem decode_eq (b : Nat) (w : Word) :
    (∃ i, decode b w = .ok i ∧ (Record.ofWord b w).instr? = some i) ∨
      (decode b w = .error (.reservedOpcode (fieldOp w).toNat) ∧ (Record.ofWord b w).kind = .invalid) := by
  unfold decode
  cases h : (Record.ofWord b w).instr? with
  | some i => exact .inl ⟨i, rfl, rfl⟩
  | none => exact .inr ⟨rfl, Record.instr?_eq_none.mp h⟩

/-- A word that decodes is the instruction of the record Fetch copies out of it (rules R50, R75). -/
theorem Entry.instr?_of_decode {b n : Nat} (h : b ≤ n) {w : Word} {i : Instr} (hd : decode b w = .ok i) :
    ((Entry.word w : Entry n).toRecord b).instr? = some i := by
  rw [Entry.toRecord, Record.instr?_sext h]
  rcases decode_eq b w with ⟨j, hj, hr⟩ | ⟨hj, _⟩
  · rw [hj] at hd; cases hd; exact hr
  · rw [hj] at hd; cases hd

end Sys2Proof
end

