-- ==== Sys2Proof/Laws/Ops.lean ====
section
/-! SUPPORT. What the shared operations over registers, busy bits, data memory and instruction store can do. -/

namespace Sys2Proof.Machine

variable {c : Config}

/-! Registers and busy bits. -/

@[simp] theorem CoreState.reg_setReg (s : CoreState c) (r q : Reg) (v : c.Value) :
    (s.setReg r v).reg q = if q = r then v else s.reg q := by
  simp only [CoreState.reg, CoreState.setReg, Vector.getElem_set, Fin.ext_iff, eq_comm]

theorem CoreState.reg_setReg_self (s : CoreState c) (r : Reg) (v : c.Value) : (s.setReg r v).reg r = v := by simp

theorem CoreState.reg_setReg_other (s : CoreState c) {r q : Reg} (v : c.Value) (h : q ≠ r) :
    (s.setReg r v).reg q = s.reg q := by simp [h]

@[simp] theorem CoreState.reg_commitReg (s : CoreState c) (r q : Reg) (v : c.Value) :
    (s.commitReg r v).reg q = if q = r then v else s.reg q := s.reg_setReg r q v

/-- Reading a register looks at the register file only. -/
theorem CoreState.reg_congr {s t : CoreState c} (h : t.x = s.x) (r : Reg) : t.reg r = s.reg r := by
  simp only [CoreState.reg, h]

@[simp] theorem CoreState.reg_setFlags (s : CoreState c) (f : Flags) (q : Reg) :
    (s.setFlags f).reg q = s.reg q := rfl
@[simp] theorem CoreState.reg_retireTo (s : CoreState c) (t : c.Value) (q : Reg) :
    (s.retireTo t).reg q = s.reg q := rfl
@[simp] theorem CoreState.reg_retireNext (s : CoreState c) (q : Reg) : (s.retireNext).reg q = s.reg q := rfl
@[simp] theorem CoreState.reg_raise (s : CoreState c) (k : FaultKind) (p i : c.Value) (q : Reg) :
    (s.raise k p i).reg q = s.reg q := rfl
@[simp] theorem CoreState.reg_setBusy (s : CoreState c) (r : Reg) (b : Bool) (q : Reg) :
    (s.setBusy r b).reg q = s.reg q := rfl
@[simp] theorem CoreState.reg_redirect (s : CoreState c) (t : c.Value) (q : Reg) :
    (s.redirect t).reg q = s.reg q := rfl
@[simp] theorem CoreState.reg_passToWB (s : CoreState c) (l : Latch c.xlen) (q : Reg) :
    (s.passToWB l).reg q = s.reg q := rfl
@[simp] theorem CoreState.reg_passToMEM (s : CoreState c) (l : Latch c.xlen) (q : Reg) :
    (s.passToMEM l).reg q = s.reg q := rfl
@[simp] theorem CoreState.reg_passToEX (s : CoreState c) (l : Latch c.xlen) (q : Reg) :
    (s.passToEX l).reg q = s.reg q := rfl
@[simp] theorem CoreState.reg_passToD (s : CoreState c) (l : Latch c.xlen) (t : c.Value) (q : Reg) :
    (s.passToD l t).reg q = s.reg q := rfl
@[simp] theorem CoreState.reg_retireLatch (s : CoreState c) (l : Latch c.xlen) (q : Reg) :
    (s.retireLatch l).reg q = s.reg q := rfl
@[simp] theorem CoreState.reg_setCells (s : CoreState c) (m : List (Nat × c.Value)) (q : Reg) :
    (s.setCells m).reg q = s.reg q := rfl
@[simp] theorem CoreState.reg_setHalted (s : CoreState c) (q : Reg) : (s.setHalted).reg q = s.reg q := rfl
@[simp] theorem CoreState.reg_setStall (s : CoreState c) (b : Bool) (q : Reg) :
    (s.setStall b).reg q = s.reg q := rfl
@[simp] theorem CoreState.reg_updateHistory (s : CoreState c) (i : Slot) (b : Bool) (q : Reg) :
    (s.updateHistory i b).reg q = s.reg q := rfl
@[simp] theorem CoreState.reg_countCycle (s : CoreState c) (q : Reg) : (s.countCycle).reg q = s.reg q := rfl
@[simp] theorem CoreState.reg_fetchIdle (s : CoreState c) (q : Reg) : (s.fetchIdle).reg q = s.reg q := rfl

@[simp] theorem CoreState.busyBit_setFlags (s : CoreState c) (f : Flags) (q : Reg) :
    (s.setFlags f).busyBit q = s.busyBit q := rfl
@[simp] theorem CoreState.busyBit_retireTo (s : CoreState c) (t : c.Value) (q : Reg) :
    (s.retireTo t).busyBit q = s.busyBit q := rfl
@[simp] theorem CoreState.busyBit_retireNext (s : CoreState c) (q : Reg) :
    (s.retireNext).busyBit q = s.busyBit q := rfl
@[simp] theorem CoreState.busyBit_raise (s : CoreState c) (k : FaultKind) (p i : c.Value) (q : Reg) :
    (s.raise k p i).busyBit q = s.busyBit q := rfl
@[simp] theorem CoreState.busyBit_redirect (s : CoreState c) (t : c.Value) (q : Reg) :
    (s.redirect t).busyBit q = s.busyBit q := rfl
@[simp] theorem CoreState.busyBit_passToWB (s : CoreState c) (l : Latch c.xlen) (q : Reg) :
    (s.passToWB l).busyBit q = s.busyBit q := rfl
@[simp] theorem CoreState.busyBit_passToMEM (s : CoreState c) (l : Latch c.xlen) (q : Reg) :
    (s.passToMEM l).busyBit q = s.busyBit q := rfl
@[simp] theorem CoreState.busyBit_passToEX (s : CoreState c) (l : Latch c.xlen) (q : Reg) :
    (s.passToEX l).busyBit q = s.busyBit q := rfl
@[simp] theorem CoreState.busyBit_passToD (s : CoreState c) (l : Latch c.xlen) (t : c.Value) (q : Reg) :
    (s.passToD l t).busyBit q = s.busyBit q := rfl
@[simp] theorem CoreState.busyBit_retireLatch (s : CoreState c) (l : Latch c.xlen) (q : Reg) :
    (s.retireLatch l).busyBit q = s.busyBit q := rfl
@[simp] theorem CoreState.busyBit_setCells (s : CoreState c) (m : List (Nat × c.Value)) (q : Reg) :
    (s.setCells m).busyBit q = s.busyBit q := rfl
@[simp] theorem CoreState.busyBit_setHalted (s : CoreState c) (q : Reg) :
    (s.setHalted).busyBit q = s.busyBit q := rfl
@[simp] theorem CoreState.busyBit_setStall (s : CoreState c) (b : Bool) (q : Reg) :
    (s.setStall b).busyBit q = s.busyBit q := rfl
@[simp] theorem CoreState.busyBit_updateHistory (s : CoreState c) (i : Slot) (b : Bool) (q : Reg) :
    (s.updateHistory i b).busyBit q = s.busyBit q := rfl
@[simp] theorem CoreState.busyBit_countCycle (s : CoreState c) (q : Reg) :
    (s.countCycle).busyBit q = s.busyBit q := rfl
@[simp] theorem CoreState.busyBit_fetchIdle (s : CoreState c) (q : Reg) :
    (s.fetchIdle).busyBit q = s.busyBit q := rfl

@[simp] theorem CoreState.busyBit_setBusy (s : CoreState c) (r q : Reg) (b : Bool) :
    (s.setBusy r b).busyBit q = if q = r then b else s.busyBit q := by
  simp only [CoreState.busyBit, CoreState.setBusy, Vector.getElem_set, Fin.ext_iff, eq_comm]

@[simp] theorem CoreState.busyBit_commitReg (s : CoreState c) (r q : Reg) (v : c.Value) :
    (s.commitReg r v).busyBit q = if q = r then false else s.busyBit q :=
  (s.setReg r v).busyBit_setBusy r q false

/-! Data memory. -/

theorem cellsAbove_weaken {a b : Nat} (h : a ≤ b) :
    ∀ m : List (Nat × c.Value), cellsAbove b m = true → cellsAbove a m = true
  | [], _ => rfl
  | (c, v) :: m, hm => by
    simp only [cellsAbove, Bool.and_eq_true, decide_eq_true_eq] at hm ⊢
    exact ⟨⟨by omega, hm.1.2⟩, hm.2⟩

theorem memoryWf_of_cellsAbove {a : Nat} :
    ∀ {m : List (Nat × c.Value)}, cellsAbove a m = true → memoryWf m = true
  | [], _ => rfl
  | (_, _) :: _, hm => by
    simp only [cellsAbove, memoryWf, Bool.and_eq_true, decide_eq_true_eq] at hm ⊢
    exact ⟨hm.1.2, hm.2⟩

theorem cellsAbove_tail {b : Nat} {v : c.Value} {m : List (Nat × c.Value)} (h : memoryWf ((b, v) :: m) = true) :
    cellsAbove b m = true := by
  simp only [memoryWf, Bool.and_eq_true] at h
  exact h.2

/-- A cell at or below the lower bound is not listed. -/
theorem readCell_eq_unlisted {a b : Nat} (h : a ≤ b) :
    ∀ m : List (Nat × c.Value), cellsAbove b m = true → readCell m a = unlistedCell
  | [], _ => rfl
  | (c, v) :: m, hm => by
    simp only [cellsAbove, Bool.and_eq_true, decide_eq_true_eq] at hm
    rw [readCell, if_neg (by omega), readCell_eq_unlisted (by omega : a ≤ c) m hm.2]

theorem cellsAbove_writeCell (a : Nat) (v : c.Value) :
    ∀ (b : Nat) (m : List (Nat × c.Value)), b < a → cellsAbove b m = true → cellsAbove b (writeCell m a v) = true
  | b, [], hb, _ => by
    by_cases hv : v = unlistedCell <;> simp [writeCell, cellsAbove, hv, hb]
  | b, (c, w) :: m, hb, hm => by
    have hm' := hm
    simp only [cellsAbove, Bool.and_eq_true, decide_eq_true_eq] at hm'
    unfold writeCell
    split_ifs with h1 hv h2 hv
    · exact hm
    · simp only [cellsAbove, Bool.and_eq_true, decide_eq_true_eq]
      exact ⟨⟨hb, hv⟩, ⟨h1, hm'.1.2⟩, hm'.2⟩
    · exact cellsAbove_weaken (by omega) m hm'.2
    · subst h2
      simp only [cellsAbove, Bool.and_eq_true, decide_eq_true_eq]
      exact ⟨⟨hb, hv⟩, hm'.2⟩
    · simp only [cellsAbove, Bool.and_eq_true, decide_eq_true_eq]
      exact ⟨hm'.1, cellsAbove_writeCell a v c m (by omega) hm'.2⟩

/-- A write keeps the canonical form. -/
theorem memoryWf_writeCell (m : List (Nat × c.Value)) (a : Nat) (v : c.Value) (h : memoryWf m = true) :
    memoryWf (writeCell m a v) = true := by
  cases m with
  | nil => by_cases hv : v = unlistedCell <;> simp [writeCell, memoryWf, cellsAbove, hv]
  | cons e m =>
    obtain ⟨c, w⟩ := e
    have ht := cellsAbove_tail h
    have hw : w ≠ unlistedCell := by
      simp only [memoryWf, Bool.and_eq_true, decide_eq_true_eq] at h
      exact h.1
    unfold writeCell
    split_ifs with h1 hv h2 hv
    · exact h
    · simp [memoryWf, cellsAbove, hv, h1, hw, ht]
    · exact memoryWf_of_cellsAbove ht
    · subst h2
      simp [memoryWf, hv, ht]
    · simp [memoryWf, hw, cellsAbove_writeCell a v c m (by omega) ht]

/-- A read after a write: the written cell holds the value, every other cell what it held. -/
theorem readCell_writeCell (m : List (Nat × c.Value)) (a b : Nat) (v : c.Value) (h : memoryWf m = true) :
    readCell (writeCell m a v) b = if b = a then v else readCell m b := by
  induction m with
  | nil =>
    by_cases hv : v = unlistedCell <;> by_cases hb : b = a <;> simp [writeCell, readCell, hv, hb]
  | cons e m ih =>
    obtain ⟨c, w⟩ := e
    have ht := cellsAbove_tail h
    have ih := ih (memoryWf_of_cellsAbove ht)
    rcases Nat.lt_trichotomy a c with hac | hac | hac
    · have low : readCell ((c, w) :: m) a = unlistedCell := by
        rw [readCell, if_neg (by omega), readCell_eq_unlisted (by omega : a ≤ c) m ht]
      by_cases hv : v = unlistedCell <;> by_cases hb : b = a <;>
        simp [writeCell, hac, hv, hb, low, readCell.eq_2]
    · have low : readCell m c = unlistedCell := readCell_eq_unlisted (Nat.le_refl c) m ht
      by_cases hv : v = unlistedCell <;> by_cases hb : b = c <;>
        simp [writeCell, hac, hv, hb, low, readCell]
    · have h1 : ¬a < c := by omega
      have h2 : a ≠ c := by omega
      rw [writeCell, if_neg h1, if_neg h2, readCell, ih, readCell]
      by_cases hb : b = c
      · rw [if_pos hb, if_pos hb, if_neg (by omega)]
      · rw [if_neg hb, if_neg hb]

theorem readCell_writeCell_self (m : List (Nat × c.Value)) (a : Nat) (v : c.Value) (h : memoryWf m = true) :
    readCell (writeCell m a v) a = v := by rw [readCell_writeCell m a a v h, if_pos rfl]

theorem readCell_writeCell_other (m : List (Nat × c.Value)) {a b : Nat} (v : c.Value) (h : memoryWf m = true)
    (hb : b ≠ a) : readCell (writeCell m a v) b = readCell m b := by
  rw [readCell_writeCell m a b v h, if_neg hb]

/-- Equal reads mean equal memories: the canonical form is one form. -/
theorem memory_ext : ∀ {m n : List (Nat × c.Value)}, memoryWf m = true → memoryWf n = true →
    (∀ a, readCell m a = readCell n a) → m = n
  | [], [], _, _, _ => rfl
  | [], (c, w) :: n, _, hn, h => by
    simp only [memoryWf, Bool.and_eq_true, decide_eq_true_eq] at hn
    have := h c
    simp [readCell] at this
    exact absurd this.symm hn.1
  | (c, w) :: m, [], hm, _, h => by
    simp only [memoryWf, Bool.and_eq_true, decide_eq_true_eq] at hm
    have := h c
    simp [readCell] at this
    exact absurd this hm.1
  | (c, w) :: m, (d, u) :: n, hm, hn, h => by
    have tm := cellsAbove_tail hm
    have tn := cellsAbove_tail hn
    simp only [memoryWf, Bool.and_eq_true, decide_eq_true_eq] at hm hn
    have hcd : c = d := by
      rcases Nat.lt_trichotomy c d with hlt | heq | hgt
      · have := h c
        rw [readCell, if_pos rfl, readCell, if_neg (by omega), readCell_eq_unlisted (by omega : c ≤ d) n tn] at this
        exact absurd this hm.1
      · exact heq
      · have := h d
        rw [readCell, if_neg (by omega), readCell_eq_unlisted (by omega : d ≤ c) m tm, readCell, if_pos rfl] at this
        exact absurd this.symm hn.1
    subst hcd
    have hwu : w = u := by simpa [readCell] using h c
    subst hwu
    have : m = n := memory_ext (memoryWf_of_cellsAbove tm) (memoryWf_of_cellsAbove tn) fun a => by
      by_cases ha : a = c
      · subst ha
        rw [readCell_eq_unlisted (Nat.le_refl a) m tm, readCell_eq_unlisted (Nat.le_refl a) n tn]
      · simpa [readCell, ha] using h a
    rw [this]

/-- Every listed cell of a written memory was listed or is the written one. -/
theorem writeCell_all (p : Nat → Bool) (m : List (Nat × c.Value)) (a : Nat) (v : c.Value)
    (hm : (m.all fun c => p c.1) = true) (ha : p a = true) :
    ((writeCell m a v).all fun c => p c.1) = true := by
  induction m with
  | nil =>
    unfold writeCell
    split_ifs <;> simp [ha]
  | cons e m ih =>
    obtain ⟨c, w⟩ := e
    rw [List.all_cons, Bool.and_eq_true] at hm
    unfold writeCell
    split_ifs <;> simp [List.all_cons, hm.1, hm.2, ha, ih hm.2]

/-! `MemRead` and `MemWrite`. -/

/-- A read that answers answers the cell, at an index inside the memory. -/
theorem CoreState.memRead_eq_some {s : CoreState c} {a v : c.Value} :
    s.memRead a = some v ↔ a.toNat < c.dmemSize ∧ readCell s.dmem a.toNat = v := by
  simp [CoreState.memRead, inMemory]

theorem CoreState.memRead_eq_none {s : CoreState c} {a : c.Value} :
    s.memRead a = none ↔ c.dmemSize ≤ a.toNat := by
  simp [CoreState.memRead, inMemory]

/-- A write that answers changes the data memory at one index inside it, and nothing else. -/
theorem CoreState.memWrite_eq_some {s t : CoreState c} {a v : c.Value} :
    s.memWrite a v = some t ↔
      a.toNat < c.dmemSize ∧ t = s.setCells (writeCell s.dmem a.toNat v) := by
  simp [CoreState.memWrite, inMemory, eq_comm]

theorem CoreState.memWrite_eq_none {s : CoreState c} {a v : c.Value} :
    s.memWrite a v = none ↔ c.dmemSize ≤ a.toNat := by
  simp [CoreState.memWrite, inMemory]

/-! Instruction store. -/

/-- A fetchable address has an entry. -/
theorem CoreState.entryAt_isSome (s : CoreState c) (a : c.Value) : (s.entryAt a).isSome = s.fetchable a := by
  unfold CoreState.entryAt
  by_cases h : s.fetchable a = true
  · rw [if_pos h, h]
    simp only [CoreState.fetchable, Bool.and_eq_true, decide_eq_true_eq] at h
    have : entryIndex a < s.imem.length := by
      unfold entryIndex
      omega
    simp [this]
  · simp [h]

/-- What a fetch reads depends on the instruction store only. -/
theorem CoreState.entryAt_congr {s t : CoreState c} (hi : t.imem = s.imem) (a : c.Value) :
    t.entryAt a = s.entryAt a := by
  unfold CoreState.entryAt CoreState.fetchable entryIndex
  rw [hi]

end Sys2Proof.Machine
end

