-- ==== Sys2Proof/Laws/Step.lean ====
section
/-! SUPPORT. The core as a machine of one layer, how a meaning answers, and what a step of each layer is. -/

namespace Sys2Proof.Machine

variable {c : Config} (s t : CoreState c) (l : Layer)

@[simp] theorem CoreState.onLayer_config : (s.onLayer l).config = c := rfl
@[simp] theorem CoreState.onLayer_layer : (s.onLayer l).layer = l := rfl
@[simp] theorem CoreState.onLayer_core : (s.onLayer l).core = s := rfl

/-- A core on a layer is determined by the core. -/
@[simp] theorem CoreState.onLayer_inj : s.onLayer l = t.onLayer l ↔ s = t :=
  ⟨fun h => by cases h; rfl, fun h => by rw [h]⟩

/-- Every machine is its core on its layer. -/
theorem State.eq_onLayer (u : State) : u = u.core.onLayer u.layer := rfl

@[simp] theorem CoreState.answer_onLayer : (s.onLayer l).answer t = .next (t.onLayer l) := rfl

/-- What keeps a core from being started, and what lets it start (rules R5, R8, R242). -/
theorem CoreState.bootProblem_eq_none :
    s.bootProblem = none ↔ s.imem ≠ [] ∧ c.wf = true ∧ c.codeBase + 4 * s.imem.length ≤ 2 ^ c.xlen := by
  unfold CoreState.bootProblem
  cases s.imem with
  | nil => simp
  | cons e p => simp only [List.isEmpty_cons]; split_ifs with h <;> simp_all

/-- On the pipeline layer a step of a core that may run is a tick. -/
theorem step_pipeline (h : s.bootProblem = none) :
    step (s.onLayer .pipeline) = .next ((tick s).onLayer .pipeline) := by simp [step, h]

/-- On the sequential layer a step of a core that may run is one instruction. -/
theorem step_sequential (h : s.bootProblem = none) :
    step (s.onLayer .sequential) = seqStep (s.onLayer .sequential) := by simp [step, h]

/-- What a step of the sequential machine can do: stay, run the instruction at `pc`, or raise `InvalidOpcode`. -/
theorem seqStep_cases :
    (s.stopped = true ∧ seqStep (s.onLayer l) = .next (s.onLayer l)) ∨
    (s.stopped = false ∧ s.entryAt s.pc = none ∧ seqStep (s.onLayer l) = .next (s.onLayer l)) ∨
    (∃ e i, s.stopped = false ∧ s.entryAt s.pc = some e ∧ (e.toRecord c.immBits).instr? = some i ∧
      seqStep (s.onLayer l) = exec i (s.onLayer l)) ∨
    (∃ e, s.stopped = false ∧ s.entryAt s.pc = some e ∧ (e.toRecord c.immBits).instr? = none ∧
      seqStep (s.onLayer l) = raiseInvalid (s.onLayer l)) := by
  unfold seqStep
  by_cases h0 : s.stopped = true
  · exact .inl ⟨h0, by simp [h0]⟩
  rw [Bool.not_eq_true] at h0
  cases he : s.entryAt s.pc with
  | none => exact .inr (.inl ⟨h0, rfl, by simp [h0, he]⟩)
  | some e =>
    cases hi : (e.toRecord c.immBits).instr? with
    | some i => exact .inr (.inr (.inl ⟨e, i, h0, rfl, hi, by simp [h0, he, hi]⟩))
    | none => exact .inr (.inr (.inr ⟨e, h0, rfl, hi, by simp [h0, he, hi]⟩))

end Sys2Proof.Machine
end

