-- ==== Sys2Proof/Laws/Exec.lean ====
section
/-! SUPPORT. What each meaning answers, as one equation on the core: a later proof rewrites with these and unfolds no
meaning. -/

namespace Sys2Proof.Machine

variable {c : Config} (s : CoreState c) (l : Layer) (rd rs1 rs2 : Reg) (imm : Int)

/-- An immediate read back from a value is the value. -/
@[simp] theorem immValue_toInt (v : c.Value) : immValue c v.toInt = v := BitVec.ofInt_toInt

@[simp] theorem exec_add :
    exec (.add rd rs1 rs2) (s.onLayer l) = .next ((s.finishFlagged rd (aluAdd (s.reg rs1) (s.reg rs2))).onLayer l) := rfl
@[simp] theorem exec_sub :
    exec (.sub rd rs1 rs2) (s.onLayer l) = .next ((s.finishFlagged rd (aluSub (s.reg rs1) (s.reg rs2))).onLayer l) := rfl
@[simp] theorem exec_mul :
    exec (.mul rd rs1 rs2) (s.onLayer l) = .next ((s.finishFlagged rd (aluMul (s.reg rs1) (s.reg rs2))).onLayer l) := rfl
theorem exec_div :
    exec (.div rd rs1 rs2) (s.onLayer l) =
      .next ((if s.reg rs2 = 0 then s.raise .divisionByZero s.pc (s.reg rs1)
        else s.finishFlagged rd (aluDiv (s.reg rs1) (s.reg rs2))).onLayer l) := by
  by_cases h : s.reg rs2 = 0
  · rw [if_pos h]; exact if_pos h
  · rw [if_neg h]; exact if_neg h
@[simp] theorem exec_and :
    exec (.and rd rs1 rs2) (s.onLayer l) = .next ((s.finishResult rd (aluAnd (s.reg rs1) (s.reg rs2))).onLayer l) := rfl
@[simp] theorem exec_or :
    exec (.or rd rs1 rs2) (s.onLayer l) = .next ((s.finishResult rd (aluOr (s.reg rs1) (s.reg rs2))).onLayer l) := rfl
@[simp] theorem exec_xor :
    exec (.xor rd rs1 rs2) (s.onLayer l) = .next ((s.finishResult rd (aluXor (s.reg rs1) (s.reg rs2))).onLayer l) := rfl
@[simp] theorem exec_addl :
    exec (.addl rd rs1 imm) (s.onLayer l) = .next ((s.finishFlagged rd (aluAdd (s.reg rs1) (immValue c imm))).onLayer l) := rfl
@[simp] theorem exec_subl :
    exec (.subl rd rs1 imm) (s.onLayer l) = .next ((s.finishFlagged rd (aluSub (s.reg rs1) (immValue c imm))).onLayer l) := rfl
@[simp] theorem exec_movc :
    exec (.movc rd imm) (s.onLayer l) = .next ((s.finishResult rd (immValue c imm)).onLayer l) := rfl
@[simp] theorem exec_cmp :
    exec (.cmp rs1 rs2) (s.onLayer l) = .next ((s.finishCompare (s.reg rs1) (s.reg rs2)).onLayer l) := rfl
@[simp] theorem exec_cml :
    exec (.cml rs1 imm) (s.onLayer l) = .next ((s.finishCompare (s.reg rs1) (immValue c imm)).onLayer l) := rfl
theorem exec_load :
    exec (.load rd rs1 imm) (s.onLayer l) =
      .next ((match s.memRead (effAddr (s.reg rs1) (immValue c imm)) with
        | none => s.raiseMemory (effAddr (s.reg rs1) (immValue c imm))
        | some v => (s.setReg rd v).retireNext).onLayer l) := by
  cases h : s.memRead (effAddr (s.reg rs1) (immValue c imm)) <;>
    exact (by simp only [exec, execLoad, CoreState.onLayer] at h ⊢; rw [h]; rfl)
theorem exec_loadp :
    exec (.loadp rd rs1 imm) (s.onLayer l) =
      .next ((match s.memRead (effAddr (s.reg rs1) (immValue c imm)) with
        | none => s.raiseMemory (effAddr (s.reg rs1) (immValue c imm))
        | some v => ((s.setReg rs1 (postInc c (s.reg rs1))).setReg rd v).retireNext).onLayer l) := by
  cases h : s.memRead (effAddr (s.reg rs1) (immValue c imm)) <;>
    exact (by simp only [exec, execLoadp, CoreState.onLayer] at h ⊢; rw [h]; rfl)
theorem exec_store :
    exec (.store rs1 rs2 imm) (s.onLayer l) =
      .next ((match s.memWrite (effAddr (s.reg rs2) (immValue c imm)) (s.reg rs1) with
        | none => s.raiseMemory (effAddr (s.reg rs2) (immValue c imm))
        | some v => v.retireNext).onLayer l) := by
  cases h : s.memWrite (effAddr (s.reg rs2) (immValue c imm)) (s.reg rs1) <;>
    exact (by simp only [exec, execStore, CoreState.onLayer] at h ⊢; rw [h]; rfl)
theorem exec_storep :
    exec (.storep rs1 rs2 imm) (s.onLayer l) =
      .next ((match s.memWrite (effAddr (s.reg rs2) (immValue c imm)) (s.reg rs1) with
        | none => s.raiseMemory (effAddr (s.reg rs2) (immValue c imm))
        | some v => (v.setReg rs2 (postInc c (s.reg rs2))).retireNext).onLayer l) := by
  cases h : s.memWrite (effAddr (s.reg rs2) (immValue c imm)) (s.reg rs1) <;>
    exact (by simp only [exec, execStorep, CoreState.onLayer] at h ⊢; rw [h]; rfl)
@[simp] theorem exec_bz :
    exec (.bz imm) (s.onLayer l) = .next ((s.branch (condZ s.flags) (immValue c imm)).onLayer l) := rfl
@[simp] theorem exec_bnz :
    exec (.bnz imm) (s.onLayer l) = .next ((s.branch (condNZ s.flags) (immValue c imm)).onLayer l) := rfl
@[simp] theorem exec_bp :
    exec (.bp imm) (s.onLayer l) = .next ((s.branch (condP s.flags) (immValue c imm)).onLayer l) := rfl
@[simp] theorem exec_bnp :
    exec (.bnp imm) (s.onLayer l) = .next ((s.branch (condNP s.flags) (immValue c imm)).onLayer l) := rfl
@[simp] theorem exec_bn :
    exec (.bn imm) (s.onLayer l) = .next ((s.branch (condN s.flags) (immValue c imm)).onLayer l) := rfl
@[simp] theorem exec_bnn :
    exec (.bnn imm) (s.onLayer l) = .next ((s.branch (condNN s.flags) (immValue c imm)).onLayer l) := rfl
@[simp] theorem exec_jump :
    exec (.jump rs1 imm) (s.onLayer l) = .next ((s.transfer (jumpTarget (s.reg rs1) (immValue c imm))).onLayer l) := rfl
theorem exec_jalr :
    exec (.jalr rd rs1 imm) (s.onLayer l) =
      .next ((if aligned (jumpTarget (s.reg rs1) (immValue c imm)) then
          (s.setReg rd (nextPc s.pc)).retireTo (jumpTarget (s.reg rs1) (immValue c imm))
        else s.raise .misalignedTarget s.pc (jumpTarget (s.reg rs1) (immValue c imm))).onLayer l) := by
  by_cases h : aligned (jumpTarget (s.reg rs1) (immValue c imm)) = true
  · rw [if_pos h]; exact if_pos h
  · rw [if_neg h]; exact if_neg h
@[simp] theorem exec_nop :
    exec (.nop) (s.onLayer l) = .next ((s.retireNext).onLayer l) := rfl
@[simp] theorem exec_halt :
    exec (.halt) (s.onLayer l) = .next ((s.retireNext.setHalted).onLayer l) := rfl
@[simp] theorem raiseInvalid_onLayer :
    raiseInvalid (s.onLayer l) = .next ((s.raise .invalidOpcode s.pc 0).onLayer l) := rfl

end Sys2Proof.Machine
end

