-- ==== Sys2Proof/Laws/Pipeline.lean ====
section
/-! SUPPORT. What each stage of the pipeline, and the cycle procedure, can do: the fields a stage leaves alone, and
one lemma per stage that says what becomes of the others. -/

namespace Sys2Proof.Machine

variable {c : Config} (s : CoreState c)

/-! Writeback leaves alone everything but registers, busy bits, `retired`, `halted` and `L_WB`. -/

@[simp] theorem CoreState.commitBase_pc (l : Latch c.xlen) : (s.commitBase l).pc = s.pc := by
  unfold CoreState.commitBase; split <;> rfl
@[simp] theorem CoreState.commitBase_flags (l : Latch c.xlen) : (s.commitBase l).flags = s.flags := by
  unfold CoreState.commitBase; split <;> rfl
@[simp] theorem CoreState.commitBase_dmem (l : Latch c.xlen) : (s.commitBase l).dmem = s.dmem := by
  unfold CoreState.commitBase; split <;> rfl
@[simp] theorem CoreState.commitBase_imem (l : Latch c.xlen) : (s.commitBase l).imem = s.imem := by
  unfold CoreState.commitBase; split <;> rfl
@[simp] theorem CoreState.commitBase_cycles (l : Latch c.xlen) : (s.commitBase l).cycles = s.cycles := by
  unfold CoreState.commitBase; split <;> rfl
@[simp] theorem CoreState.commitBase_retired (l : Latch c.xlen) : (s.commitBase l).retired = s.retired := by
  unfold CoreState.commitBase; split <;> rfl
@[simp] theorem CoreState.commitBase_redirectPending (l : Latch c.xlen) :
    (s.commitBase l).redirectPending = s.redirectPending := by
  unfold CoreState.commitBase; split <;> rfl
@[simp] theorem CoreState.commitBase_halted (l : Latch c.xlen) : (s.commitBase l).halted = s.halted := by
  unfold CoreState.commitBase; split <;> rfl
@[simp] theorem CoreState.commitBase_fetchEnabled (l : Latch c.xlen) :
    (s.commitBase l).fetchEnabled = s.fetchEnabled := by
  unfold CoreState.commitBase; split <;> rfl
@[simp] theorem CoreState.commitBase_stall (l : Latch c.xlen) : (s.commitBase l).stall = s.stall := by
  unfold CoreState.commitBase; split <;> rfl
@[simp] theorem CoreState.commitBase_fault (l : Latch c.xlen) : (s.commitBase l).fault = s.fault := by
  unfold CoreState.commitBase; split <;> rfl
@[simp] theorem CoreState.commitBase_lF (l : Latch c.xlen) : (s.commitBase l).lF = s.lF := by
  unfold CoreState.commitBase; split <;> rfl
@[simp] theorem CoreState.commitBase_lD (l : Latch c.xlen) : (s.commitBase l).lD = s.lD := by
  unfold CoreState.commitBase; split <;> rfl
@[simp] theorem CoreState.commitBase_lEX (l : Latch c.xlen) : (s.commitBase l).lEX = s.lEX := by
  unfold CoreState.commitBase; split <;> rfl
@[simp] theorem CoreState.commitBase_lMEM (l : Latch c.xlen) : (s.commitBase l).lMEM = s.lMEM := by
  unfold CoreState.commitBase; split <;> rfl
@[simp] theorem CoreState.commitBase_lWB (l : Latch c.xlen) : (s.commitBase l).lWB = s.lWB := by
  unfold CoreState.commitBase; split <;> rfl
@[simp] theorem CoreState.commitBase_btb (l : Latch c.xlen) : (s.commitBase l).btb = s.btb := by
  unfold CoreState.commitBase; split <;> rfl
@[simp] theorem CoreState.commitRd_pc (l : Latch c.xlen) : (s.commitRd l).pc = s.pc := by
  unfold CoreState.commitRd; split <;> rfl
@[simp] theorem CoreState.commitRd_flags (l : Latch c.xlen) : (s.commitRd l).flags = s.flags := by
  unfold CoreState.commitRd; split <;> rfl
@[simp] theorem CoreState.commitRd_dmem (l : Latch c.xlen) : (s.commitRd l).dmem = s.dmem := by
  unfold CoreState.commitRd; split <;> rfl
@[simp] theorem CoreState.commitRd_imem (l : Latch c.xlen) : (s.commitRd l).imem = s.imem := by
  unfold CoreState.commitRd; split <;> rfl
@[simp] theorem CoreState.commitRd_cycles (l : Latch c.xlen) : (s.commitRd l).cycles = s.cycles := by
  unfold CoreState.commitRd; split <;> rfl
@[simp] theorem CoreState.commitRd_retired (l : Latch c.xlen) : (s.commitRd l).retired = s.retired := by
  unfold CoreState.commitRd; split <;> rfl
@[simp] theorem CoreState.commitRd_redirectPending (l : Latch c.xlen) :
    (s.commitRd l).redirectPending = s.redirectPending := by
  unfold CoreState.commitRd; split <;> rfl
@[simp] theorem CoreState.commitRd_halted (l : Latch c.xlen) : (s.commitRd l).halted = s.halted := by
  unfold CoreState.commitRd; split <;> rfl
@[simp] theorem CoreState.commitRd_fetchEnabled (l : Latch c.xlen) :
    (s.commitRd l).fetchEnabled = s.fetchEnabled := by
  unfold CoreState.commitRd; split <;> rfl
@[simp] theorem CoreState.commitRd_stall (l : Latch c.xlen) : (s.commitRd l).stall = s.stall := by
  unfold CoreState.commitRd; split <;> rfl
@[simp] theorem CoreState.commitRd_fault (l : Latch c.xlen) : (s.commitRd l).fault = s.fault := by
  unfold CoreState.commitRd; split <;> rfl
@[simp] theorem CoreState.commitRd_lF (l : Latch c.xlen) : (s.commitRd l).lF = s.lF := by
  unfold CoreState.commitRd; split <;> rfl
@[simp] theorem CoreState.commitRd_lD (l : Latch c.xlen) : (s.commitRd l).lD = s.lD := by
  unfold CoreState.commitRd; split <;> rfl
@[simp] theorem CoreState.commitRd_lEX (l : Latch c.xlen) : (s.commitRd l).lEX = s.lEX := by
  unfold CoreState.commitRd; split <;> rfl
@[simp] theorem CoreState.commitRd_lMEM (l : Latch c.xlen) : (s.commitRd l).lMEM = s.lMEM := by
  unfold CoreState.commitRd; split <;> rfl
@[simp] theorem CoreState.commitRd_lWB (l : Latch c.xlen) : (s.commitRd l).lWB = s.lWB := by
  unfold CoreState.commitRd; split <;> rfl
@[simp] theorem CoreState.commitRd_btb (l : Latch c.xlen) : (s.commitRd l).btb = s.btb := by
  unfold CoreState.commitRd; split <;> rfl
@[simp] theorem wbStage_pc : (wbStage s).pc = s.pc := by
  unfold wbStage; split <;> simp
@[simp] theorem wbStage_flags : (wbStage s).flags = s.flags := by
  unfold wbStage; split <;> simp
@[simp] theorem wbStage_dmem : (wbStage s).dmem = s.dmem := by
  unfold wbStage; split <;> simp
@[simp] theorem wbStage_imem : (wbStage s).imem = s.imem := by
  unfold wbStage; split <;> simp
@[simp] theorem wbStage_cycles : (wbStage s).cycles = s.cycles := by
  unfold wbStage; split <;> simp
@[simp] theorem wbStage_redirectPending : (wbStage s).redirectPending = s.redirectPending := by
  unfold wbStage; split <;> simp
@[simp] theorem wbStage_fetchEnabled : (wbStage s).fetchEnabled = s.fetchEnabled := by
  unfold wbStage; split <;> simp
@[simp] theorem wbStage_stall : (wbStage s).stall = s.stall := by
  unfold wbStage; split <;> simp
@[simp] theorem wbStage_fault : (wbStage s).fault = s.fault := by
  unfold wbStage; split <;> simp
@[simp] theorem wbStage_lF : (wbStage s).lF = s.lF := by
  unfold wbStage; split <;> simp
@[simp] theorem wbStage_lD : (wbStage s).lD = s.lD := by
  unfold wbStage; split <;> simp
@[simp] theorem wbStage_lEX : (wbStage s).lEX = s.lEX := by
  unfold wbStage; split <;> simp
@[simp] theorem wbStage_lMEM : (wbStage s).lMEM = s.lMEM := by
  unfold wbStage; split <;> simp
@[simp] theorem wbStage_btb : (wbStage s).btb = s.btb := by
  unfold wbStage; split <;> simp

/-! Memory leaves alone everything but the data memory, the fault register, `L_MEM` and `L_WB`. -/

/-- What `MEM()` can do: nothing without a valid latch, hand the latch on with a loaded value, hand it on after a
store, hand it on unchanged, or record the fault of an access outside the memory (rules R144, R224). -/
theorem memStage_cases :
    (s.lMEM.valid = false ∧ memStage s = s) ∨
    (∃ v, s.lMEM.valid = true ∧ isLoad s.lMEM.kind = true ∧ s.memRead s.lMEM.memAddr = some v ∧
      memStage s = s.passToWB { s.lMEM with result := v }) ∨
    (s.lMEM.valid = true ∧ isLoad s.lMEM.kind = false ∧ isStore s.lMEM.kind = true ∧
      s.lMEM.memAddr.toNat < c.dmemSize ∧
      memStage s = (s.setCells (writeCell s.dmem s.lMEM.memAddr.toNat s.lMEM.rs1Value)).passToWB s.lMEM) ∨
    (s.lMEM.valid = true ∧ isLoad s.lMEM.kind = false ∧ isStore s.lMEM.kind = false ∧
      memStage s = s.passToWB s.lMEM) ∨
    (s.lMEM.valid = true ∧ (isLoad s.lMEM.kind = true ∨ isStore s.lMEM.kind = true) ∧
      c.dmemSize ≤ s.lMEM.memAddr.toNat ∧
      memStage s = s.raise .memoryFault s.lMEM.pc s.lMEM.memAddr) := by
  unfold memStage
  by_cases hv : s.lMEM.valid = true
  · rw [if_pos hv]
    by_cases hl : isLoad s.lMEM.kind = true
    · rw [if_pos hl]
      cases hr : s.memRead s.lMEM.memAddr with
      | none => exact .inr (.inr (.inr (.inr ⟨hv, .inl hl, CoreState.memRead_eq_none.mp hr, rfl⟩)))
      | some v => exact .inr (.inl ⟨v, hv, hl, rfl, rfl⟩)
    · rw [if_neg hl]
      rw [Bool.not_eq_true] at hl
      by_cases hs : isStore s.lMEM.kind = true
      · rw [if_pos hs]
        cases hw : s.memWrite s.lMEM.memAddr s.lMEM.rs1Value with
        | none => exact .inr (.inr (.inr (.inr ⟨hv, .inr hs, CoreState.memWrite_eq_none.mp hw, rfl⟩)))
        | some t =>
          obtain ⟨hb, rfl⟩ := CoreState.memWrite_eq_some.mp hw
          exact .inr (.inr (.inl ⟨hv, hl, hs, hb, rfl⟩))
      · rw [if_neg hs]
        rw [Bool.not_eq_true] at hs
        exact .inr (.inr (.inr (.inl ⟨hv, hl, hs, rfl⟩)))
  · rw [if_neg hv]
    exact .inl ⟨by simpa using hv, rfl⟩

@[simp] theorem memStage_x : (memStage s).x = s.x := by
  rcases memStage_cases s with ⟨-, h⟩ | ⟨v, -, -, -, h⟩ | ⟨-, -, -, -, h⟩ | ⟨-, -, -, h⟩ | ⟨-, -, -, h⟩ <;> simp [h]
@[simp] theorem memStage_pc : (memStage s).pc = s.pc := by
  rcases memStage_cases s with ⟨-, h⟩ | ⟨v, -, -, -, h⟩ | ⟨-, -, -, -, h⟩ | ⟨-, -, -, h⟩ | ⟨-, -, -, h⟩ <;> simp [h]
@[simp] theorem memStage_flags : (memStage s).flags = s.flags := by
  rcases memStage_cases s with ⟨-, h⟩ | ⟨v, -, -, -, h⟩ | ⟨-, -, -, -, h⟩ | ⟨-, -, -, h⟩ | ⟨-, -, -, h⟩ <;> simp [h]
@[simp] theorem memStage_imem : (memStage s).imem = s.imem := by
  rcases memStage_cases s with ⟨-, h⟩ | ⟨v, -, -, -, h⟩ | ⟨-, -, -, -, h⟩ | ⟨-, -, -, h⟩ | ⟨-, -, -, h⟩ <;> simp [h]
@[simp] theorem memStage_cycles : (memStage s).cycles = s.cycles := by
  rcases memStage_cases s with ⟨-, h⟩ | ⟨v, -, -, -, h⟩ | ⟨-, -, -, -, h⟩ | ⟨-, -, -, h⟩ | ⟨-, -, -, h⟩ <;> simp [h]
@[simp] theorem memStage_retired : (memStage s).retired = s.retired := by
  rcases memStage_cases s with ⟨-, h⟩ | ⟨v, -, -, -, h⟩ | ⟨-, -, -, -, h⟩ | ⟨-, -, -, h⟩ | ⟨-, -, -, h⟩ <;> simp [h]
@[simp] theorem memStage_redirectPending : (memStage s).redirectPending = s.redirectPending := by
  rcases memStage_cases s with ⟨-, h⟩ | ⟨v, -, -, -, h⟩ | ⟨-, -, -, -, h⟩ | ⟨-, -, -, h⟩ | ⟨-, -, -, h⟩ <;> simp [h]
@[simp] theorem memStage_halted : (memStage s).halted = s.halted := by
  rcases memStage_cases s with ⟨-, h⟩ | ⟨v, -, -, -, h⟩ | ⟨-, -, -, -, h⟩ | ⟨-, -, -, h⟩ | ⟨-, -, -, h⟩ <;> simp [h]
@[simp] theorem memStage_fetchEnabled : (memStage s).fetchEnabled = s.fetchEnabled := by
  rcases memStage_cases s with ⟨-, h⟩ | ⟨v, -, -, -, h⟩ | ⟨-, -, -, -, h⟩ | ⟨-, -, -, h⟩ | ⟨-, -, -, h⟩ <;> simp [h]
@[simp] theorem memStage_stall : (memStage s).stall = s.stall := by
  rcases memStage_cases s with ⟨-, h⟩ | ⟨v, -, -, -, h⟩ | ⟨-, -, -, -, h⟩ | ⟨-, -, -, h⟩ | ⟨-, -, -, h⟩ <;> simp [h]
@[simp] theorem memStage_lF : (memStage s).lF = s.lF := by
  rcases memStage_cases s with ⟨-, h⟩ | ⟨v, -, -, -, h⟩ | ⟨-, -, -, -, h⟩ | ⟨-, -, -, h⟩ | ⟨-, -, -, h⟩ <;> simp [h]
@[simp] theorem memStage_lD : (memStage s).lD = s.lD := by
  rcases memStage_cases s with ⟨-, h⟩ | ⟨v, -, -, -, h⟩ | ⟨-, -, -, -, h⟩ | ⟨-, -, -, h⟩ | ⟨-, -, -, h⟩ <;> simp [h]
@[simp] theorem memStage_lEX : (memStage s).lEX = s.lEX := by
  rcases memStage_cases s with ⟨-, h⟩ | ⟨v, -, -, -, h⟩ | ⟨-, -, -, -, h⟩ | ⟨-, -, -, h⟩ | ⟨-, -, -, h⟩ <;> simp [h]
@[simp] theorem memStage_btb : (memStage s).btb = s.btb := by
  rcases memStage_cases s with ⟨-, h⟩ | ⟨v, -, -, -, h⟩ | ⟨-, -, -, -, h⟩ | ⟨-, -, -, h⟩ | ⟨-, -, -, h⟩ <;> simp [h]
@[simp] theorem memStage_busy : (memStage s).busy = s.busy := by
  rcases memStage_cases s with ⟨-, h⟩ | ⟨v, -, -, -, h⟩ | ⟨-, -, -, -, h⟩ | ⟨-, -, -, h⟩ | ⟨-, -, -, h⟩ <;> simp [h]

/-! Execute. -/

/-- What the Execute stage's part of one instruction can leave when it does not raise: the record, the address and the
predictor fields of the latch stay, and the state changes only in the flags, the table, and by a redirect
(rules R145, R160). -/
structure ExPassed (l : Latch c.xlen) (s : CoreState c) (l' : Latch c.xlen) (t : CoreState c) : Prop where
  toRecord : l'.toRecord = l.toRecord
  pc : l'.pc = l.pc
  rs1Value : l'.rs1Value = l.rs1Value
  rs2Value : l'.rs2Value = l.rs2Value
  x : t.x = s.x
  dmem : t.dmem = s.dmem
  imem : t.imem = s.imem
  cycles : t.cycles = s.cycles
  retired : t.retired = s.retired
  halted : t.halted = s.halted
  stall : t.stall = s.stall
  fault : t.fault = s.fault
  lEX : t.lEX = s.lEX
  lMEM : t.lMEM = s.lMEM
  lWB : t.lWB = s.lWB
  busy : t.busy = s.busy
  /-- Fetch and Decode stay as they are, or a redirect has flushed them. -/
  flow : (t.pc = s.pc ∧ t.lD = s.lD ∧ t.lF = s.lF ∧ t.redirectPending = s.redirectPending ∧
      t.fetchEnabled = s.fetchEnabled) ∨
    (t.lD = { s.lD with valid := false } ∧ t.lF = { s.lF with valid := false } ∧ t.redirectPending = true ∧
      t.fetchEnabled = true)
  /-- The table is trained in one slot, by a conditional branch, or stays as it is. -/
  btb : t.btb = s.btb ∨ (isCondBranch l.kind = true ∧ ∃ taken, t.btb = (s.updateHistory l.btbIdx taken).btb)

/-- What it can leave when it raises: the fault register, and for a conditional branch its trained entry (rule R225).
-/
def ExRaised (l : Latch c.xlen) (s t : CoreState c) : Prop :=
  ∃ k info, k ≠ FaultKind.none ∧
    (t = s.raise k l.pc info ∨
      (isCondBranch l.kind = true ∧ t = (s.updateHistory l.btbIdx true).raise k l.pc info))

/-- The branch resolution, case by case (rule R207). -/
theorem exBranch_cases (taken : Bool) (l : Latch c.xlen) (s : CoreState c) :
    (taken = true ∧ aligned (branchTarget l.pc l.imm) = false ∧
      exBranch taken l s =
        .raise ((s.updateHistory l.btbIdx taken).raise .misalignedTarget l.pc (branchTarget l.pc l.imm))) ∨
    (taken = true ∧ aligned (branchTarget l.pc l.imm) = true ∧ l.predTaken = false ∧
      exBranch taken l s = .pass l ((s.updateHistory l.btbIdx taken).redirect (branchTarget l.pc l.imm))) ∨
    (taken = false ∧ l.predTaken = true ∧
      exBranch taken l s = .pass l ((s.updateHistory l.btbIdx taken).redirect (nextPc l.pc))) ∨
    (taken = l.predTaken ∧ (taken = true → aligned (branchTarget l.pc l.imm) = true) ∧
      exBranch taken l s = .pass l (s.updateHistory l.btbIdx taken)) := by
  unfold exBranch
  cases taken <;> cases l.predTaken <;> cases h : aligned (branchTarget l.pc l.imm) <;> simp [h]

theorem ExPassed.of_alu {l l' : Latch c.xlen} {s : CoreState c} (f : Flags) (h1 : l'.toRecord = l.toRecord)
    (h2 : l'.pc = l.pc) (h3 : l'.rs1Value = l.rs1Value) (h4 : l'.rs2Value = l.rs2Value) : ExPassed l s l' (s.setFlags f) :=
  ⟨h1, h2, h3, h4, rfl, rfl, rfl, rfl, rfl, rfl, rfl, rfl, rfl, rfl, rfl, rfl,
    .inl ⟨rfl, rfl, rfl, rfl, rfl⟩, .inl rfl⟩

theorem ExPassed.of_redirect {l l' : Latch c.xlen} {s : CoreState c} (t : c.Value) (h1 : l'.toRecord = l.toRecord)
    (h2 : l'.pc = l.pc) (h3 : l'.rs1Value = l.rs1Value) (h4 : l'.rs2Value = l.rs2Value) :
    ExPassed l s l' (s.redirect t) :=
  ⟨h1, h2, h3, h4, rfl, rfl, rfl, rfl, rfl, rfl, rfl, rfl, rfl, rfl, rfl, rfl,
    .inr ⟨rfl, rfl, rfl, rfl⟩, .inl rfl⟩

theorem exBranch_spec {taken : Bool} {l : Latch c.xlen} (hk : isCondBranch l.kind = true) (s : CoreState c) :
    (∃ t, exBranch taken l s = .raise t ∧ ExRaised l s t) ∨
      ∃ t, exBranch taken l s = .pass l t ∧ ExPassed l s l t := by
  have hp (h : taken = l.predTaken) : ExPassed l s l (s.updateHistory l.btbIdx taken) :=
    ⟨rfl, rfl, rfl, rfl, rfl, rfl, rfl, rfl, rfl, rfl, rfl, rfl, rfl, rfl, rfl, rfl,
      .inl ⟨rfl, rfl, rfl, rfl, rfl⟩, .inr ⟨hk, taken, rfl⟩⟩
  have hr (t : c.Value) : ExPassed l s l ((s.updateHistory l.btbIdx taken).redirect t) :=
    ⟨rfl, rfl, rfl, rfl, rfl, rfl, rfl, rfl, rfl, rfl, rfl, rfl, rfl, rfl, rfl, rfl,
      .inr ⟨rfl, rfl, rfl, rfl⟩, .inr ⟨hk, taken, rfl⟩⟩
  rcases exBranch_cases taken l s with ⟨h, -, e⟩ | ⟨-, -, -, e⟩ | ⟨-, -, e⟩ | ⟨h, -, e⟩
  · exact .inl ⟨_, e, .misalignedTarget, _, by simp, .inr ⟨hk, by rw [h]⟩⟩
  · exact .inr ⟨_, e, hr _⟩
  · exact .inr ⟨_, e, hr _⟩
  · exact .inr ⟨_, e, hp h⟩

/-- Every kind raises as `ExRaised` says or passes as `ExPassed` says. -/
theorem exKind_spec (l : Latch c.xlen) (s : CoreState c) :
    (∃ t, exKind l s = .raise t ∧ ExRaised l s t) ∨ ∃ l' t, exKind l s = .pass l' t ∧ ExPassed l s l' t := by
  have br {taken : Bool} (hk : isCondBranch l.kind = true) :
      (∃ t, exBranch taken l s = .raise t ∧ ExRaised l s t) ∨
        ∃ l' t, exBranch taken l s = .pass l' t ∧ ExPassed l s l' t :=
    (exBranch_spec hk s).imp_right fun ⟨t, h⟩ => ⟨l, t, h⟩
  have id_flags : s.setFlags s.flags = s := rfl
  unfold exKind
  cases hk : l.kind with
  | invalid => exact .inl ⟨_, rfl, _, _, by simp, .inl rfl⟩
  | div =>
    simp only [exDiv]
    split_ifs
    · exact .inl ⟨_, rfl, _, _, by simp, .inl rfl⟩
    · exact .inr ⟨_, _, rfl, .of_alu _ rfl rfl rfl rfl⟩
  | add => exact .inr ⟨_, _, rfl, .of_alu _ rfl rfl rfl rfl⟩
  | sub => exact .inr ⟨_, _, rfl, .of_alu _ rfl rfl rfl rfl⟩
  | mul => exact .inr ⟨_, _, rfl, .of_alu _ rfl rfl rfl rfl⟩
  | addl => exact .inr ⟨_, _, rfl, .of_alu _ rfl rfl rfl rfl⟩
  | subl => exact .inr ⟨_, _, rfl, .of_alu _ rfl rfl rfl rfl⟩
  | cmp => exact .inr ⟨_, _, rfl, .of_alu _ rfl rfl rfl rfl⟩
  | cml => exact .inr ⟨_, _, rfl, .of_alu _ rfl rfl rfl rfl⟩
  | and => exact .inr ⟨_, _, rfl, .of_alu s.flags rfl rfl rfl rfl⟩
  | or => exact .inr ⟨_, _, rfl, .of_alu s.flags rfl rfl rfl rfl⟩
  | xor => exact .inr ⟨_, _, rfl, .of_alu s.flags rfl rfl rfl rfl⟩
  | movc => exact .inr ⟨_, _, rfl, .of_alu s.flags rfl rfl rfl rfl⟩
  | load => exact .inr ⟨_, _, rfl, .of_alu s.flags rfl rfl rfl rfl⟩
  | loadp => exact .inr ⟨_, _, rfl, .of_alu s.flags rfl rfl rfl rfl⟩
  | store => exact .inr ⟨_, _, rfl, .of_alu s.flags rfl rfl rfl rfl⟩
  | storep => exact .inr ⟨_, _, rfl, .of_alu s.flags rfl rfl rfl rfl⟩
  | nop => exact .inr ⟨_, _, rfl, .of_alu s.flags rfl rfl rfl rfl⟩
  | halt => exact .inr ⟨_, _, rfl, .of_alu s.flags rfl rfl rfl rfl⟩
  | bz => exact br (by rw [hk]; rfl)
  | bnz => exact br (by rw [hk]; rfl)
  | bp => exact br (by rw [hk]; rfl)
  | bnp => exact br (by rw [hk]; rfl)
  | bn => exact br (by rw [hk]; rfl)
  | bnn => exact br (by rw [hk]; rfl)
  | jump =>
    simp only [exJump]
    split_ifs
    · exact .inr ⟨_, _, rfl, .of_redirect _ rfl rfl rfl rfl⟩
    · exact .inl ⟨_, rfl, _, _, by simp, .inl rfl⟩
  | jalr =>
    simp only [exJalr]
    split_ifs
    · exact .inr ⟨_, _, rfl, .of_redirect _ rfl rfl rfl rfl⟩
    · exact .inl ⟨_, rfl, _, _, by simp, .inl rfl⟩

/-- What `EX()` can do: nothing without a valid latch, raise with the latch left as it is, or hand the latch on. -/
theorem exStage_cases :
    (s.lEX.valid = false ∧ exStage s = s) ∨
    (∃ t, s.lEX.valid = true ∧ exKind s.lEX s = .raise t ∧ ExRaised s.lEX s t ∧ exStage s = t) ∨
    (∃ l t, s.lEX.valid = true ∧ exKind s.lEX s = .pass l t ∧ ExPassed s.lEX s l t ∧
      exStage s = t.passToMEM l) := by
  unfold exStage
  by_cases hv : s.lEX.valid = true
  · rw [if_pos hv]
    rcases exKind_spec s.lEX s with ⟨t, h, r⟩ | ⟨l, t, h, p⟩
    · exact .inr (.inl ⟨t, hv, h, r, by rw [h]⟩)
    · exact .inr (.inr ⟨l, t, hv, h, p, by rw [h]⟩)
  · rw [if_neg hv]
    exact .inl ⟨by simpa using hv, rfl⟩

/-- Execute leaves alone everything but `pc`, the flags, the fault register, the control bits of a redirect, the
latches it passes or flushes, and the table. -/
theorem exStage_frame :
    (exStage s).x = s.x ∧ (exStage s).dmem = s.dmem ∧ (exStage s).imem = s.imem ∧
    (exStage s).cycles = s.cycles ∧ (exStage s).retired = s.retired ∧ (exStage s).halted = s.halted ∧
    (exStage s).stall = s.stall ∧ (exStage s).lWB = s.lWB ∧ (exStage s).busy = s.busy := by
  rcases exStage_cases s with ⟨-, h⟩ | ⟨t, -, -, ⟨k, i, -, rfl | ⟨-, rfl⟩⟩, h⟩ | ⟨l, t, -, -, p, h⟩
  · simp [h]
  · simp [h]
  · simp [h]
  · simp [h, p.x, p.dmem, p.imem, p.cycles, p.retired, p.halted, p.stall, p.lWB, p.busy]

@[simp] theorem exStage_x : (exStage s).x = s.x := (exStage_frame s).1
@[simp] theorem exStage_dmem : (exStage s).dmem = s.dmem := (exStage_frame s).2.1
@[simp] theorem exStage_imem : (exStage s).imem = s.imem := (exStage_frame s).2.2.1
@[simp] theorem exStage_cycles : (exStage s).cycles = s.cycles := (exStage_frame s).2.2.2.1
@[simp] theorem exStage_retired : (exStage s).retired = s.retired := (exStage_frame s).2.2.2.2.1
@[simp] theorem exStage_halted : (exStage s).halted = s.halted := (exStage_frame s).2.2.2.2.2.1
@[simp] theorem exStage_stall : (exStage s).stall = s.stall := (exStage_frame s).2.2.2.2.2.2.1
@[simp] theorem exStage_lWB : (exStage s).lWB = s.lWB := (exStage_frame s).2.2.2.2.2.2.2.1
@[simp] theorem exStage_busy : (exStage s).busy = s.busy := (exStage_frame s).2.2.2.2.2.2.2.2

/-! Decode. -/

@[simp] theorem CoreState.allocateBranch_x : (s.allocateBranch).x = s.x := by
  unfold CoreState.allocateBranch; split <;> rfl
@[simp] theorem CoreState.allocateBranch_pc : (s.allocateBranch).pc = s.pc := by
  unfold CoreState.allocateBranch; split <;> rfl
@[simp] theorem CoreState.allocateBranch_flags : (s.allocateBranch).flags = s.flags := by
  unfold CoreState.allocateBranch; split <;> rfl
@[simp] theorem CoreState.allocateBranch_dmem : (s.allocateBranch).dmem = s.dmem := by
  unfold CoreState.allocateBranch; split <;> rfl
@[simp] theorem CoreState.allocateBranch_imem : (s.allocateBranch).imem = s.imem := by
  unfold CoreState.allocateBranch; split <;> rfl
@[simp] theorem CoreState.allocateBranch_cycles : (s.allocateBranch).cycles = s.cycles := by
  unfold CoreState.allocateBranch; split <;> rfl
@[simp] theorem CoreState.allocateBranch_retired : (s.allocateBranch).retired = s.retired := by
  unfold CoreState.allocateBranch; split <;> rfl
@[simp] theorem CoreState.allocateBranch_redirectPending :
    (s.allocateBranch).redirectPending = s.redirectPending := by
  unfold CoreState.allocateBranch; split <;> rfl
@[simp] theorem CoreState.allocateBranch_halted : (s.allocateBranch).halted = s.halted := by
  unfold CoreState.allocateBranch; split <;> rfl
@[simp] theorem CoreState.allocateBranch_fetchEnabled : (s.allocateBranch).fetchEnabled = s.fetchEnabled := by
  unfold CoreState.allocateBranch; split <;> rfl
@[simp] theorem CoreState.allocateBranch_stall : (s.allocateBranch).stall = s.stall := by
  unfold CoreState.allocateBranch; split <;> rfl
@[simp] theorem CoreState.allocateBranch_fault : (s.allocateBranch).fault = s.fault := by
  unfold CoreState.allocateBranch; split <;> rfl
@[simp] theorem CoreState.allocateBranch_lF : (s.allocateBranch).lF = s.lF := by
  unfold CoreState.allocateBranch; split <;> rfl
@[simp] theorem CoreState.allocateBranch_lEX : (s.allocateBranch).lEX = s.lEX := by
  unfold CoreState.allocateBranch; split <;> rfl
@[simp] theorem CoreState.allocateBranch_lMEM : (s.allocateBranch).lMEM = s.lMEM := by
  unfold CoreState.allocateBranch; split <;> rfl
@[simp] theorem CoreState.allocateBranch_lWB : (s.allocateBranch).lWB = s.lWB := by
  unfold CoreState.allocateBranch; split <;> rfl
@[simp] theorem CoreState.allocateBranch_busy : (s.allocateBranch).busy = s.busy := by
  unfold CoreState.allocateBranch; split <;> rfl
/-- Marking registers busy touches nothing else. -/
theorem CoreState.setBusyAll_frame (ds : List Reg) (b : Bool) :
    ∃ v, s.setBusyAll ds b = { s with busy := v } := by
  unfold CoreState.setBusyAll
  induction ds generalizing s with
  | nil => exact ⟨s.busy, rfl⟩
  | cons d ds ih =>
    obtain ⟨v, h⟩ := ih (s.setBusy d b)
    exact ⟨v, by rw [List.foldl_cons, h]; rfl⟩

@[simp] theorem CoreState.setBusyAll_x (ds : List Reg) (b : Bool) : (s.setBusyAll ds b).x = s.x := by
  obtain ⟨v, h⟩ := s.setBusyAll_frame ds b; rw [h]
@[simp] theorem CoreState.setBusyAll_pc (ds : List Reg) (b : Bool) : (s.setBusyAll ds b).pc = s.pc := by
  obtain ⟨v, h⟩ := s.setBusyAll_frame ds b; rw [h]
@[simp] theorem CoreState.setBusyAll_flags (ds : List Reg) (b : Bool) : (s.setBusyAll ds b).flags = s.flags := by
  obtain ⟨v, h⟩ := s.setBusyAll_frame ds b; rw [h]
@[simp] theorem CoreState.setBusyAll_dmem (ds : List Reg) (b : Bool) : (s.setBusyAll ds b).dmem = s.dmem := by
  obtain ⟨v, h⟩ := s.setBusyAll_frame ds b; rw [h]
@[simp] theorem CoreState.setBusyAll_imem (ds : List Reg) (b : Bool) : (s.setBusyAll ds b).imem = s.imem := by
  obtain ⟨v, h⟩ := s.setBusyAll_frame ds b; rw [h]
@[simp] theorem CoreState.setBusyAll_cycles (ds : List Reg) (b : Bool) : (s.setBusyAll ds b).cycles = s.cycles := by
  obtain ⟨v, h⟩ := s.setBusyAll_frame ds b; rw [h]
@[simp] theorem CoreState.setBusyAll_retired (ds : List Reg) (b : Bool) :
    (s.setBusyAll ds b).retired = s.retired := by
  obtain ⟨v, h⟩ := s.setBusyAll_frame ds b; rw [h]
@[simp] theorem CoreState.setBusyAll_redirectPending (ds : List Reg) (b : Bool) :
    (s.setBusyAll ds b).redirectPending = s.redirectPending := by
  obtain ⟨v, h⟩ := s.setBusyAll_frame ds b; rw [h]
@[simp] theorem CoreState.setBusyAll_halted (ds : List Reg) (b : Bool) : (s.setBusyAll ds b).halted = s.halted := by
  obtain ⟨v, h⟩ := s.setBusyAll_frame ds b; rw [h]
@[simp] theorem CoreState.setBusyAll_fetchEnabled (ds : List Reg) (b : Bool) :
    (s.setBusyAll ds b).fetchEnabled = s.fetchEnabled := by
  obtain ⟨v, h⟩ := s.setBusyAll_frame ds b; rw [h]
@[simp] theorem CoreState.setBusyAll_stall (ds : List Reg) (b : Bool) : (s.setBusyAll ds b).stall = s.stall := by
  obtain ⟨v, h⟩ := s.setBusyAll_frame ds b; rw [h]
@[simp] theorem CoreState.setBusyAll_fault (ds : List Reg) (b : Bool) : (s.setBusyAll ds b).fault = s.fault := by
  obtain ⟨v, h⟩ := s.setBusyAll_frame ds b; rw [h]
@[simp] theorem CoreState.setBusyAll_lF (ds : List Reg) (b : Bool) : (s.setBusyAll ds b).lF = s.lF := by
  obtain ⟨v, h⟩ := s.setBusyAll_frame ds b; rw [h]
@[simp] theorem CoreState.setBusyAll_lD (ds : List Reg) (b : Bool) : (s.setBusyAll ds b).lD = s.lD := by
  obtain ⟨v, h⟩ := s.setBusyAll_frame ds b; rw [h]
@[simp] theorem CoreState.setBusyAll_lEX (ds : List Reg) (b : Bool) : (s.setBusyAll ds b).lEX = s.lEX := by
  obtain ⟨v, h⟩ := s.setBusyAll_frame ds b; rw [h]
@[simp] theorem CoreState.setBusyAll_lMEM (ds : List Reg) (b : Bool) : (s.setBusyAll ds b).lMEM = s.lMEM := by
  obtain ⟨v, h⟩ := s.setBusyAll_frame ds b; rw [h]
@[simp] theorem CoreState.setBusyAll_lWB (ds : List Reg) (b : Bool) : (s.setBusyAll ds b).lWB = s.lWB := by
  obtain ⟨v, h⟩ := s.setBusyAll_frame ds b; rw [h]
@[simp] theorem CoreState.setBusyAll_btb (ds : List Reg) (b : Bool) : (s.setBusyAll ds b).btb = s.btb := by
  obtain ⟨v, h⟩ := s.setBusyAll_frame ds b; rw [h]
@[simp] theorem CoreState.busyBit_setBusyAll (ds : List Reg) (b : Bool) (q : Reg) :
    (s.setBusyAll ds b).busyBit q = if q ∈ ds then b else s.busyBit q := by
  unfold CoreState.setBusyAll
  induction ds generalizing s with
  | nil => simp
  | cons d ds ih =>
    rw [List.foldl_cons, ih, CoreState.busyBit_setBusy]
    by_cases h1 : q ∈ ds <;> by_cases h2 : q = d <;> simp [h1, h2]

@[simp] theorem CoreState.markBusy_x (l : Latch c.xlen) : (s.markBusy l).x = s.x := by
  unfold CoreState.markBusy; cases c.strategy <;> simp
@[simp] theorem CoreState.markBusy_pc (l : Latch c.xlen) : (s.markBusy l).pc = s.pc := by
  unfold CoreState.markBusy; cases c.strategy <;> simp
@[simp] theorem CoreState.markBusy_flags (l : Latch c.xlen) : (s.markBusy l).flags = s.flags := by
  unfold CoreState.markBusy; cases c.strategy <;> simp
@[simp] theorem CoreState.markBusy_dmem (l : Latch c.xlen) : (s.markBusy l).dmem = s.dmem := by
  unfold CoreState.markBusy; cases c.strategy <;> simp
@[simp] theorem CoreState.markBusy_imem (l : Latch c.xlen) : (s.markBusy l).imem = s.imem := by
  unfold CoreState.markBusy; cases c.strategy <;> simp
@[simp] theorem CoreState.markBusy_cycles (l : Latch c.xlen) : (s.markBusy l).cycles = s.cycles := by
  unfold CoreState.markBusy; cases c.strategy <;> simp
@[simp] theorem CoreState.markBusy_retired (l : Latch c.xlen) : (s.markBusy l).retired = s.retired := by
  unfold CoreState.markBusy; cases c.strategy <;> simp
@[simp] theorem CoreState.markBusy_redirectPending (l : Latch c.xlen) :
    (s.markBusy l).redirectPending = s.redirectPending := by
  unfold CoreState.markBusy; cases c.strategy <;> simp
@[simp] theorem CoreState.markBusy_halted (l : Latch c.xlen) : (s.markBusy l).halted = s.halted := by
  unfold CoreState.markBusy; cases c.strategy <;> simp
@[simp] theorem CoreState.markBusy_fetchEnabled (l : Latch c.xlen) :
    (s.markBusy l).fetchEnabled = s.fetchEnabled := by
  unfold CoreState.markBusy; cases c.strategy <;> simp
@[simp] theorem CoreState.markBusy_stall (l : Latch c.xlen) : (s.markBusy l).stall = s.stall := by
  unfold CoreState.markBusy; cases c.strategy <;> simp
@[simp] theorem CoreState.markBusy_fault (l : Latch c.xlen) : (s.markBusy l).fault = s.fault := by
  unfold CoreState.markBusy; cases c.strategy <;> simp
@[simp] theorem CoreState.markBusy_lF (l : Latch c.xlen) : (s.markBusy l).lF = s.lF := by
  unfold CoreState.markBusy; cases c.strategy <;> simp
@[simp] theorem CoreState.markBusy_lD (l : Latch c.xlen) : (s.markBusy l).lD = s.lD := by
  unfold CoreState.markBusy; cases c.strategy <;> simp
@[simp] theorem CoreState.markBusy_lEX (l : Latch c.xlen) : (s.markBusy l).lEX = s.lEX := by
  unfold CoreState.markBusy; cases c.strategy <;> simp
@[simp] theorem CoreState.markBusy_lMEM (l : Latch c.xlen) : (s.markBusy l).lMEM = s.lMEM := by
  unfold CoreState.markBusy; cases c.strategy <;> simp
@[simp] theorem CoreState.markBusy_lWB (l : Latch c.xlen) : (s.markBusy l).lWB = s.lWB := by
  unfold CoreState.markBusy; cases c.strategy <;> simp
@[simp] theorem CoreState.markBusy_btb (l : Latch c.xlen) : (s.markBusy l).btb = s.btb := by
  unfold CoreState.markBusy; cases c.strategy <;> simp
@[simp] theorem CoreState.issue_x : (s.issue).x = s.x := by
  simp [CoreState.issue]
@[simp] theorem CoreState.issue_pc : (s.issue).pc = s.pc := by
  simp [CoreState.issue]
@[simp] theorem CoreState.issue_flags : (s.issue).flags = s.flags := by
  simp [CoreState.issue]
@[simp] theorem CoreState.issue_dmem : (s.issue).dmem = s.dmem := by
  simp [CoreState.issue]
@[simp] theorem CoreState.issue_imem : (s.issue).imem = s.imem := by
  simp [CoreState.issue]
@[simp] theorem CoreState.issue_cycles : (s.issue).cycles = s.cycles := by
  simp [CoreState.issue]
@[simp] theorem CoreState.issue_retired : (s.issue).retired = s.retired := by
  simp [CoreState.issue]
@[simp] theorem CoreState.issue_redirectPending : (s.issue).redirectPending = s.redirectPending := by
  simp [CoreState.issue]
@[simp] theorem CoreState.issue_halted : (s.issue).halted = s.halted := by
  simp [CoreState.issue]
@[simp] theorem CoreState.issue_stall : (s.issue).stall = s.stall := by
  simp [CoreState.issue]
@[simp] theorem CoreState.issue_fault : (s.issue).fault = s.fault := by
  simp [CoreState.issue]
@[simp] theorem CoreState.issue_lF : (s.issue).lF = s.lF := by
  simp [CoreState.issue]
@[simp] theorem CoreState.issue_lMEM : (s.issue).lMEM = s.lMEM := by
  simp [CoreState.issue]
@[simp] theorem CoreState.issue_lWB : (s.issue).lWB = s.lWB := by
  simp [CoreState.issue]
@[simp] theorem CoreState.issue_btb : (s.issue).btb = s.btb := by
  simp [CoreState.issue]
/-- What `DRF()` can do: clear `stall` without a valid latch, hold the instruction, or issue it (rule R146). -/
theorem drfStage_cases :
    (s.lD.valid = false ∧ drfStage s = s.setStall false) ∨
    (s.lD.valid = true ∧
      (let s1 := (s.setStall false).allocateBranch
       (s1.mustStall s1.lD = true ∧ drfStage s = s1.setStall true) ∨
         (s1.mustStall s1.lD = false ∧ drfStage s = s1.issue))) := by
  unfold drfStage
  by_cases hv : s.lD.valid = true
  · refine .inr ⟨hv, ?_⟩
    simp only [CoreState.setStall_lD, hv, if_true]
    split_ifs with h
    · exact .inl ⟨h, rfl⟩
    · exact .inr ⟨by simpa using h, rfl⟩
  · exact .inl ⟨by simpa using hv, by simp [hv]⟩

@[simp] theorem drfStage_x : (drfStage s).x = s.x := by
  rcases drfStage_cases s with ⟨-, h⟩ | ⟨-, ⟨-, h⟩ | ⟨-, h⟩⟩ <;> simp [h]
@[simp] theorem drfStage_pc : (drfStage s).pc = s.pc := by
  rcases drfStage_cases s with ⟨-, h⟩ | ⟨-, ⟨-, h⟩ | ⟨-, h⟩⟩ <;> simp [h]
@[simp] theorem drfStage_flags : (drfStage s).flags = s.flags := by
  rcases drfStage_cases s with ⟨-, h⟩ | ⟨-, ⟨-, h⟩ | ⟨-, h⟩⟩ <;> simp [h]
@[simp] theorem drfStage_dmem : (drfStage s).dmem = s.dmem := by
  rcases drfStage_cases s with ⟨-, h⟩ | ⟨-, ⟨-, h⟩ | ⟨-, h⟩⟩ <;> simp [h]
@[simp] theorem drfStage_imem : (drfStage s).imem = s.imem := by
  rcases drfStage_cases s with ⟨-, h⟩ | ⟨-, ⟨-, h⟩ | ⟨-, h⟩⟩ <;> simp [h]
@[simp] theorem drfStage_cycles : (drfStage s).cycles = s.cycles := by
  rcases drfStage_cases s with ⟨-, h⟩ | ⟨-, ⟨-, h⟩ | ⟨-, h⟩⟩ <;> simp [h]
@[simp] theorem drfStage_retired : (drfStage s).retired = s.retired := by
  rcases drfStage_cases s with ⟨-, h⟩ | ⟨-, ⟨-, h⟩ | ⟨-, h⟩⟩ <;> simp [h]
@[simp] theorem drfStage_redirectPending : (drfStage s).redirectPending = s.redirectPending := by
  rcases drfStage_cases s with ⟨-, h⟩ | ⟨-, ⟨-, h⟩ | ⟨-, h⟩⟩ <;> simp [h]
@[simp] theorem drfStage_halted : (drfStage s).halted = s.halted := by
  rcases drfStage_cases s with ⟨-, h⟩ | ⟨-, ⟨-, h⟩ | ⟨-, h⟩⟩ <;> simp [h]
@[simp] theorem drfStage_fault : (drfStage s).fault = s.fault := by
  rcases drfStage_cases s with ⟨-, h⟩ | ⟨-, ⟨-, h⟩ | ⟨-, h⟩⟩ <;> simp [h]
@[simp] theorem drfStage_lF : (drfStage s).lF = s.lF := by
  rcases drfStage_cases s with ⟨-, h⟩ | ⟨-, ⟨-, h⟩ | ⟨-, h⟩⟩ <;> simp [h]
@[simp] theorem drfStage_lMEM : (drfStage s).lMEM = s.lMEM := by
  rcases drfStage_cases s with ⟨-, h⟩ | ⟨-, ⟨-, h⟩ | ⟨-, h⟩⟩ <;> simp [h]
@[simp] theorem drfStage_lWB : (drfStage s).lWB = s.lWB := by
  rcases drfStage_cases s with ⟨-, h⟩ | ⟨-, ⟨-, h⟩ | ⟨-, h⟩⟩ <;> simp [h]

/-! Fetch. -/

@[simp] theorem CoreState.fetchPass_x (l : Latch c.xlen) : (s.fetchPass l).x = s.x := by
  unfold CoreState.fetchPass; split <;> rfl
@[simp] theorem CoreState.fetchPass_flags (l : Latch c.xlen) : (s.fetchPass l).flags = s.flags := by
  unfold CoreState.fetchPass; split <;> rfl
@[simp] theorem CoreState.fetchPass_dmem (l : Latch c.xlen) : (s.fetchPass l).dmem = s.dmem := by
  unfold CoreState.fetchPass; split <;> rfl
@[simp] theorem CoreState.fetchPass_imem (l : Latch c.xlen) : (s.fetchPass l).imem = s.imem := by
  unfold CoreState.fetchPass; split <;> rfl
@[simp] theorem CoreState.fetchPass_cycles (l : Latch c.xlen) : (s.fetchPass l).cycles = s.cycles := by
  unfold CoreState.fetchPass; split <;> rfl
@[simp] theorem CoreState.fetchPass_retired (l : Latch c.xlen) : (s.fetchPass l).retired = s.retired := by
  unfold CoreState.fetchPass; split <;> rfl
@[simp] theorem CoreState.fetchPass_redirectPending (l : Latch c.xlen) :
    (s.fetchPass l).redirectPending = s.redirectPending := by
  unfold CoreState.fetchPass; split <;> rfl
@[simp] theorem CoreState.fetchPass_halted (l : Latch c.xlen) : (s.fetchPass l).halted = s.halted := by
  unfold CoreState.fetchPass; split <;> rfl
@[simp] theorem CoreState.fetchPass_fetchEnabled (l : Latch c.xlen) :
    (s.fetchPass l).fetchEnabled = s.fetchEnabled := by
  unfold CoreState.fetchPass; split <;> rfl
@[simp] theorem CoreState.fetchPass_stall (l : Latch c.xlen) : (s.fetchPass l).stall = s.stall := by
  unfold CoreState.fetchPass; split <;> rfl
@[simp] theorem CoreState.fetchPass_fault (l : Latch c.xlen) : (s.fetchPass l).fault = s.fault := by
  unfold CoreState.fetchPass; split <;> rfl
@[simp] theorem CoreState.fetchPass_lEX (l : Latch c.xlen) : (s.fetchPass l).lEX = s.lEX := by
  unfold CoreState.fetchPass; split <;> rfl
@[simp] theorem CoreState.fetchPass_lMEM (l : Latch c.xlen) : (s.fetchPass l).lMEM = s.lMEM := by
  unfold CoreState.fetchPass; split <;> rfl
@[simp] theorem CoreState.fetchPass_lWB (l : Latch c.xlen) : (s.fetchPass l).lWB = s.lWB := by
  unfold CoreState.fetchPass; split <;> rfl
@[simp] theorem CoreState.fetchPass_btb (l : Latch c.xlen) : (s.fetchPass l).btb = s.btb := by
  unfold CoreState.fetchPass; split <;> rfl
@[simp] theorem CoreState.fetchPass_busy (l : Latch c.xlen) : (s.fetchPass l).busy = s.busy := by
  unfold CoreState.fetchPass; split <;> rfl
/-- What `FETCH()` can do: consume the bubble, idle, read the entry into `L_F` only, or pass the instruction to Decode
(rule R147). -/
theorem fetchStage_cases :
    (s.redirectPending = true ∧ fetchStage s = s.clearBubble.fetchIdle) ∨
    (s.redirectPending = false ∧ (s.fetchEnabled = false ∨ s.entryAt s.pc = none) ∧ fetchStage s = s.fetchIdle) ∨
    (∃ e, s.redirectPending = false ∧ s.fetchEnabled = true ∧ s.entryAt s.pc = some e ∧ s.stall = true ∧
      fetchStage s = s.setLF (Latch.fetched s.pc (e.toRecord c.immBits))) ∨
    (∃ e, s.redirectPending = false ∧ s.fetchEnabled = true ∧ s.entryAt s.pc = some e ∧ s.stall = false ∧
      fetchStage s = s.fetchPass (Latch.fetched s.pc (e.toRecord c.immBits))) := by
  unfold fetchStage
  by_cases h1 : s.redirectPending = true
  · exact .inl ⟨h1, by rw [if_pos h1]⟩
  · rw [if_neg h1]
    rw [Bool.not_eq_true] at h1
    by_cases h2 : s.fetchEnabled = true
    · simp only [h2, Bool.not_true, Bool.false_eq_true, if_false]
      cases he : s.entryAt s.pc with
      | none => exact .inr (.inl ⟨h1, .inr rfl, rfl⟩)
      | some e =>
        by_cases h3 : s.stall = true
        · exact .inr (.inr (.inl ⟨e, h1, trivial, rfl, h3, by simp [h3]⟩))
        · rw [Bool.not_eq_true] at h3
          exact .inr (.inr (.inr ⟨e, h1, trivial, rfl, h3, by simp [h3]⟩))
    · rw [Bool.not_eq_true] at h2
      exact .inr (.inl ⟨h1, .inl h2, by simp [h2]⟩)

@[simp] theorem fetchStage_x : (fetchStage s).x = s.x := by
  rcases fetchStage_cases s with ⟨-, h⟩ | ⟨-, -, h⟩ | ⟨e, -, -, -, -, h⟩ | ⟨e, -, -, -, -, h⟩ <;> simp [h]
@[simp] theorem fetchStage_flags : (fetchStage s).flags = s.flags := by
  rcases fetchStage_cases s with ⟨-, h⟩ | ⟨-, -, h⟩ | ⟨e, -, -, -, -, h⟩ | ⟨e, -, -, -, -, h⟩ <;> simp [h]
@[simp] theorem fetchStage_dmem : (fetchStage s).dmem = s.dmem := by
  rcases fetchStage_cases s with ⟨-, h⟩ | ⟨-, -, h⟩ | ⟨e, -, -, -, -, h⟩ | ⟨e, -, -, -, -, h⟩ <;> simp [h]
@[simp] theorem fetchStage_imem : (fetchStage s).imem = s.imem := by
  rcases fetchStage_cases s with ⟨-, h⟩ | ⟨-, -, h⟩ | ⟨e, -, -, -, -, h⟩ | ⟨e, -, -, -, -, h⟩ <;> simp [h]
@[simp] theorem fetchStage_cycles : (fetchStage s).cycles = s.cycles := by
  rcases fetchStage_cases s with ⟨-, h⟩ | ⟨-, -, h⟩ | ⟨e, -, -, -, -, h⟩ | ⟨e, -, -, -, -, h⟩ <;> simp [h]
@[simp] theorem fetchStage_retired : (fetchStage s).retired = s.retired := by
  rcases fetchStage_cases s with ⟨-, h⟩ | ⟨-, -, h⟩ | ⟨e, -, -, -, -, h⟩ | ⟨e, -, -, -, -, h⟩ <;> simp [h]
@[simp] theorem fetchStage_halted : (fetchStage s).halted = s.halted := by
  rcases fetchStage_cases s with ⟨-, h⟩ | ⟨-, -, h⟩ | ⟨e, -, -, -, -, h⟩ | ⟨e, -, -, -, -, h⟩ <;> simp [h]
@[simp] theorem fetchStage_fetchEnabled : (fetchStage s).fetchEnabled = s.fetchEnabled := by
  rcases fetchStage_cases s with ⟨-, h⟩ | ⟨-, -, h⟩ | ⟨e, -, -, -, -, h⟩ | ⟨e, -, -, -, -, h⟩ <;> simp [h]
@[simp] theorem fetchStage_stall : (fetchStage s).stall = s.stall := by
  rcases fetchStage_cases s with ⟨-, h⟩ | ⟨-, -, h⟩ | ⟨e, -, -, -, -, h⟩ | ⟨e, -, -, -, -, h⟩ <;> simp [h]
@[simp] theorem fetchStage_fault : (fetchStage s).fault = s.fault := by
  rcases fetchStage_cases s with ⟨-, h⟩ | ⟨-, -, h⟩ | ⟨e, -, -, -, -, h⟩ | ⟨e, -, -, -, -, h⟩ <;> simp [h]
@[simp] theorem fetchStage_lEX : (fetchStage s).lEX = s.lEX := by
  rcases fetchStage_cases s with ⟨-, h⟩ | ⟨-, -, h⟩ | ⟨e, -, -, -, -, h⟩ | ⟨e, -, -, -, -, h⟩ <;> simp [h]
@[simp] theorem fetchStage_lMEM : (fetchStage s).lMEM = s.lMEM := by
  rcases fetchStage_cases s with ⟨-, h⟩ | ⟨-, -, h⟩ | ⟨e, -, -, -, -, h⟩ | ⟨e, -, -, -, -, h⟩ <;> simp [h]
@[simp] theorem fetchStage_lWB : (fetchStage s).lWB = s.lWB := by
  rcases fetchStage_cases s with ⟨-, h⟩ | ⟨-, -, h⟩ | ⟨e, -, -, -, -, h⟩ | ⟨e, -, -, -, -, h⟩ <;> simp [h]
@[simp] theorem fetchStage_btb : (fetchStage s).btb = s.btb := by
  rcases fetchStage_cases s with ⟨-, h⟩ | ⟨-, -, h⟩ | ⟨e, -, -, -, -, h⟩ | ⟨e, -, -, -, -, h⟩ <;> simp [h]
@[simp] theorem fetchStage_busy : (fetchStage s).busy = s.busy := by
  rcases fetchStage_cases s with ⟨-, h⟩ | ⟨-, -, h⟩ | ⟨e, -, -, -, -, h⟩ | ⟨e, -, -, -, -, h⟩ <;> simp [h]

/-! The cycle procedure. -/

/-- How a tick can end (rule R141): stopped; `HALT` retired; a memory fault; an Execute fault; or evaluated whole. -/
theorem tick_cases :
    (s.stopped = true ∧ tick s = s) ∨
    (s.stopped = false ∧ (wbStage s).halted = true ∧ tick s = (wbStage s).countCycle) ∨
    (s.stopped = false ∧ (wbStage s).halted = false ∧ (memStage (wbStage s)).fault.kind ≠ .none ∧
      tick s = (memStage (wbStage s)).countCycle) ∨
    (s.stopped = false ∧ (wbStage s).halted = false ∧ (memStage (wbStage s)).fault.kind = .none ∧
      (exStage (memStage (wbStage s))).fault.kind ≠ .none ∧
      tick s = (exStage (memStage (wbStage s))).countCycle) ∨
    (s.stopped = false ∧ (wbStage s).halted = false ∧ (memStage (wbStage s)).fault.kind = .none ∧
      (exStage (memStage (wbStage s))).fault.kind = .none ∧
      tick s = (fetchStage (drfStage (exStage (memStage (wbStage s))))).countCycle) := by
  unfold tick
  by_cases h0 : s.stopped = true
  · exact .inl ⟨h0, by simp [h0]⟩
  · rw [Bool.not_eq_true] at h0
    simp only [h0, Bool.false_eq_true, if_false]
    by_cases h1 : (wbStage s).halted = true
    · exact .inr (.inl ⟨trivial, h1, by simp [h1]⟩)
    · rw [Bool.not_eq_true] at h1
      simp only [h1, Bool.false_eq_true, if_false]
      by_cases h2 : (memStage (wbStage s)).fault.kind = .none
      · by_cases h3 : (exStage (memStage (wbStage s))).fault.kind = .none
        · exact .inr (.inr (.inr (.inr ⟨trivial, trivial, h2, h3, by simp [h2, h3]⟩)))
        · exact .inr (.inr (.inr (.inl ⟨trivial, trivial, h2, h3, by simp [h2, h3]⟩)))
      · exact .inr (.inr (.inl ⟨trivial, trivial, h2, by simp [h2]⟩))

@[simp] theorem tick_imem : (tick s).imem = s.imem := by
  rcases tick_cases s with ⟨-, h⟩ | ⟨-, -, h⟩ | ⟨-, -, -, h⟩ | ⟨-, -, -, -, h⟩ | ⟨-, -, -, -, h⟩ <;> simp [h]

/-! The register file and the scoreboard after Writeback. -/

/-- A register after `WB()`: what the retiring instruction produces for it, else what it held. -/
theorem reg_wbStage (r : Reg) :
    (wbStage s).reg r = if s.lWB.produces r then s.lWB.producedValue r else s.reg r := by
  unfold wbStage Latch.produces Latch.producedValue dests CoreState.commitRd CoreState.commitBase
  by_cases hv : s.lWB.valid = true
  · rw [if_pos hv]
    simp only [hv, Bool.true_and, CoreState.reg_retireLatch]
    cases hb : base? s.lWB.toRecord <;> cases hw : writesRd s.lWB.kind <;>
      by_cases h1 : r = s.lWB.rd <;> simp [h1, eq_comm]
  · simp [hv]

/-- A busy bit after `WB()`: cleared for every destination of the retiring instruction (rule R183). -/
theorem busyBit_wbStage (r : Reg) :
    (wbStage s).busyBit r = if s.lWB.produces r then false else s.busyBit r := by
  unfold wbStage Latch.produces dests CoreState.commitRd CoreState.commitBase
  by_cases hv : s.lWB.valid = true
  · rw [if_pos hv]
    simp only [hv, Bool.true_and, CoreState.busyBit_retireLatch]
    cases hb : base? s.lWB.toRecord <;> cases hw : writesRd s.lWB.kind <;>
      by_cases h1 : r = s.lWB.rd <;> simp [h1]
  · simp [hv]

end Sys2Proof.Machine
end

