-- ==== Sys2Proof/Laws/Hazard.lean ====
section
/-! SUPPORT. Which latches a stage leaves invalid, and what the instructions that have passed Execute will have
written once they complete (spec 44_hazard_forwarding.md rules R184, R185; 60_exceptions.md rule R230). -/

namespace Sys2Proof.Machine

variable {c : Config} {s t : CoreState c}

/-! Latch ownership (rule R33). -/

theorem wbStage_lWB_valid : (wbStage s).lWB.valid = false := by
  unfold wbStage
  split <;> simp_all

theorem wbStage_eq_self (h : s.lWB.valid = false) : wbStage s = s := by
  unfold wbStage
  simp [h]

theorem memStage_eq_self (h : s.lMEM.valid = false) : memStage s = s := by
  unfold memStage
  simp [h]

/-- Unless it raises, Memory leaves `L_MEM` invalid. -/
theorem memStage_lMEM_valid (h : (memStage s).fault.kind = .none) : (memStage s).lMEM.valid = false := by
  rcases memStage_cases s with ⟨hv, e⟩ | ⟨v, -, -, -, e⟩ | ⟨-, -, -, -, e⟩ | ⟨-, -, -, e⟩ | ⟨-, -, -, e⟩ <;>
    simp_all

/-- Unless it raises, Execute leaves `L_EX` invalid. -/
theorem exStage_lEX_valid (h : (exStage s).fault.kind = .none) : (exStage s).lEX.valid = false := by
  rcases exStage_cases s with ⟨hv, e⟩ | ⟨t, -, -, ⟨k, i, hk, rfl | ⟨-, rfl⟩⟩, e⟩ | ⟨l, t, -, -, -, e⟩
  · simp [e, hv]
  · simp [e, hk] at h
  · simp [e, hk] at h
  · simp [e]

theorem Latch.produces_of_invalid {l : Latch c.xlen} (h : l.valid = false) (r : Reg) : l.produces r = false := by
  simp [Latch.produces, h]

/-! Capturing operands (rules R32, R146): the two value fields, each only where the kind reads it. -/

@[simp] theorem CoreState.captureOperands_toRecord (l : Latch c.xlen) :
    (s.captureOperands l).toRecord = l.toRecord := rfl
@[simp] theorem CoreState.captureOperands_valid (l : Latch c.xlen) : (s.captureOperands l).valid = l.valid := rfl
@[simp] theorem CoreState.captureOperands_pc (l : Latch c.xlen) : (s.captureOperands l).pc = l.pc := rfl
@[simp] theorem CoreState.captureOperands_result (l : Latch c.xlen) : (s.captureOperands l).result = l.result := rfl
@[simp] theorem CoreState.captureOperands_memAddr (l : Latch c.xlen) :
    (s.captureOperands l).memAddr = l.memAddr := rfl
@[simp] theorem CoreState.captureOperands_baseNew (l : Latch c.xlen) :
    (s.captureOperands l).baseNew = l.baseNew := rfl
@[simp] theorem CoreState.captureOperands_btbHit (l : Latch c.xlen) : (s.captureOperands l).btbHit = l.btbHit := rfl
@[simp] theorem CoreState.captureOperands_btbIdx (l : Latch c.xlen) : (s.captureOperands l).btbIdx = l.btbIdx := rfl
@[simp] theorem CoreState.captureOperands_predTaken (l : Latch c.xlen) :
    (s.captureOperands l).predTaken = l.predTaken := rfl

theorem CoreState.captureOperands_rs1Value (l : Latch c.xlen) :
    (s.captureOperands l).rs1Value = if readsRs1 l.kind then s.operandValue l.rs1 else l.rs1Value := rfl
theorem CoreState.captureOperands_rs2Value (l : Latch c.xlen) :
    (s.captureOperands l).rs2Value = if readsRs2 l.kind then s.operandValue l.rs2 else l.rs2Value := rfl

/-- A register is a source exactly when the kind reads it through one of the two fields (rule R180). -/
theorem mem_sources {n : Nat} {r : Record n} {q : Reg} :
    q ∈ sources r ↔ (readsRs1 r.kind = true ∧ q = r.rs1) ∨ (readsRs2 r.kind = true ∧ q = r.rs2) := by
  unfold sources
  cases readsRs1 r.kind <;> cases readsRs2 r.kind <;> simp

/-! The state once the instructions in Memory and Writeback have completed. -/

/-- The latch with the value its load reads; the latch itself for every other kind. -/
def CoreState.loadedLatch (s : CoreState c) (l : Latch c.xlen) : Latch c.xlen :=
  if isLoad l.kind then { l with result := readCell s.dmem l.memAddr.toNat } else l

theorem CoreState.drained_cases (s : CoreState c) :
    ((memStage (wbStage s)).fault.kind ≠ .none ∧ s.drained = memStage (wbStage s)) ∨
      ((memStage (wbStage s)).fault.kind = .none ∧ s.drained = wbStage (memStage (wbStage s))) := by
  unfold CoreState.drained
  by_cases h : (memStage (wbStage s)).fault.kind = .none
  · exact .inr ⟨h, by simp [h]⟩
  · exact .inl ⟨h, by simp [h]⟩

theorem CoreState.drained_fault (s : CoreState c) : s.drained.fault = (memStage (wbStage s)).fault := by
  rcases s.drained_cases with ⟨-, h⟩ | ⟨-, h⟩ <;> simp [h]

theorem CoreState.drained_eq (h : s.drained.fault.kind = .none) : s.drained = wbStage (memStage (wbStage s)) := by
  rcases s.drained_cases with ⟨h1, -⟩ | ⟨-, e⟩
  · exact absurd (s.drained_fault ▸ h) h1
  · exact e

/-- A register of the drained state: from the youngest producer in flight, else from the register file. -/
theorem CoreState.reg_drained (h : s.drained.fault.kind = .none) (r : Reg) :
    s.drained.reg r =
      if s.lMEM.produces r then (s.loadedLatch s.lMEM).producedValue r
      else if s.lWB.produces r then s.lWB.producedValue r
      else s.reg r := by
  rw [s.drained_eq h, reg_wbStage]
  rw [s.drained_fault] at h
  rcases memStage_cases (wbStage s) with ⟨h1, e⟩ | ⟨v, h1, h2, h3, e⟩ | ⟨h1, h2, -, -, e⟩ | ⟨h1, h2, -, e⟩ |
    ⟨-, -, -, e⟩
  · simp only [wbStage_lMEM] at h1
    simp [e, Latch.produces_of_invalid wbStage_lWB_valid, Latch.produces_of_invalid h1, reg_wbStage]
  · obtain ⟨-, rfl⟩ := CoreState.memRead_eq_some.mp h3
    simp only [wbStage_lMEM] at h1 h2
    simp [e, CoreState.loadedLatch, h2, Latch.produces, Latch.producedValue, h1, reg_wbStage]
  · simp only [wbStage_lMEM] at h1 h2
    simp [e, CoreState.loadedLatch, h2, Latch.produces, Latch.producedValue, h1, reg_wbStage]
  · simp only [wbStage_lMEM] at h1 h2
    simp [e, CoreState.loadedLatch, h2, Latch.produces, Latch.producedValue, h1, reg_wbStage]
  · simp [e] at h

end Sys2Proof.Machine
end

