-- ==== Sys2Proof/Laws/PerInstr.lean ====
section
/-! SUPPORT. Families of lemmas about instructions as syntax, one lemma per constructor of `Instr`. -/

namespace Sys2Proof

/-- The opcode field of the canonical word of `i` is the number rule R74 gives its mnemonic. -/
def Laws.OpcodeField.Statement (i : Instr) : Prop :=
  ∀ b : Nat, some (fieldOp (encode b i)).toNat = i.kind.opcode

/-- The record of `i`, with an immediate of any width in which that of `i` fits, gives `i` back (rules R70, R73). -/
def Laws.RecordRoundTrip.Statement (i : Instr) : Prop := ∀ n : Nat, i.wf n = true → (i.record n).instr? = some i

/-- The top six bits of a word built by format are the opcode bits. -/
theorem fieldOp_wordOfFormat {b : Nat} (op : BitVec 6) (r : Record b) (f : Format) :
    fieldOp (wordOfFormat op r f) = op := by
  apply BitVec.eq_of_getLsbD_eq
  intro k hk
  cases f <;>
    simp only [fieldOp, wordOfFormat, BitVec.getLsbD_extractLsb', hk, decide_true, Bool.true_and,
      BitVec.getLsbD_append] <;>
    simp [show ¬(26 + k < 26) by omega, show ¬(26 + k < 11) by omega, show ¬(26 + k < 16) by omega,
      show ¬(26 + k - 11 < 5) by omega, show ¬(26 + k - 16 < 5) by omega,
      show ¬(26 + k - 11 - 5 < 5) by omega, show ¬(26 + k - 16 - 5 < 5) by omega,
      show ¬(26 + k - 11 - 5 - 5 < 5) by omega, show 26 + k - 11 - 5 - 5 - 5 = k by omega,
      show 26 + k - 16 - 5 - 5 = k by omega, show 26 + k - 26 = k by omega]

theorem Laws.OpcodeField.add (rd rs1 rs2 : Reg) : Laws.OpcodeField.Statement (.add rd rs1 rs2) := by
  intro b; rw [encode, fieldOp_wordOfFormat]; rfl
theorem Laws.OpcodeField.sub (rd rs1 rs2 : Reg) : Laws.OpcodeField.Statement (.sub rd rs1 rs2) := by
  intro b; rw [encode, fieldOp_wordOfFormat]; rfl
theorem Laws.OpcodeField.mul (rd rs1 rs2 : Reg) : Laws.OpcodeField.Statement (.mul rd rs1 rs2) := by
  intro b; rw [encode, fieldOp_wordOfFormat]; rfl
theorem Laws.OpcodeField.div (rd rs1 rs2 : Reg) : Laws.OpcodeField.Statement (.div rd rs1 rs2) := by
  intro b; rw [encode, fieldOp_wordOfFormat]; rfl
theorem Laws.OpcodeField.and (rd rs1 rs2 : Reg) : Laws.OpcodeField.Statement (.and rd rs1 rs2) := by
  intro b; rw [encode, fieldOp_wordOfFormat]; rfl
theorem Laws.OpcodeField.or (rd rs1 rs2 : Reg) : Laws.OpcodeField.Statement (.or rd rs1 rs2) := by
  intro b; rw [encode, fieldOp_wordOfFormat]; rfl
theorem Laws.OpcodeField.xor (rd rs1 rs2 : Reg) : Laws.OpcodeField.Statement (.xor rd rs1 rs2) := by
  intro b; rw [encode, fieldOp_wordOfFormat]; rfl
theorem Laws.OpcodeField.movc (rd : Reg) (imm : Int) : Laws.OpcodeField.Statement (.movc rd imm) := by
  intro b; rw [encode, fieldOp_wordOfFormat]; rfl
theorem Laws.OpcodeField.load (rd rs1 : Reg) (imm : Int) : Laws.OpcodeField.Statement (.load rd rs1 imm) := by
  intro b; rw [encode, fieldOp_wordOfFormat]; rfl
theorem Laws.OpcodeField.store (rs1 rs2 : Reg) (imm : Int) : Laws.OpcodeField.Statement (.store rs1 rs2 imm) := by
  intro b; rw [encode, fieldOp_wordOfFormat]; rfl
theorem Laws.OpcodeField.bz (imm : Int) : Laws.OpcodeField.Statement (.bz imm) := by
  intro b; rw [encode, fieldOp_wordOfFormat]; rfl
theorem Laws.OpcodeField.bnz (imm : Int) : Laws.OpcodeField.Statement (.bnz imm) := by
  intro b; rw [encode, fieldOp_wordOfFormat]; rfl
theorem Laws.OpcodeField.halt : Laws.OpcodeField.Statement (.halt) := by
  intro b; rw [encode, fieldOp_wordOfFormat]; rfl
theorem Laws.OpcodeField.addl (rd rs1 : Reg) (imm : Int) : Laws.OpcodeField.Statement (.addl rd rs1 imm) := by
  intro b; rw [encode, fieldOp_wordOfFormat]; rfl
theorem Laws.OpcodeField.subl (rd rs1 : Reg) (imm : Int) : Laws.OpcodeField.Statement (.subl rd rs1 imm) := by
  intro b; rw [encode, fieldOp_wordOfFormat]; rfl
theorem Laws.OpcodeField.loadp (rd rs1 : Reg) (imm : Int) : Laws.OpcodeField.Statement (.loadp rd rs1 imm) := by
  intro b; rw [encode, fieldOp_wordOfFormat]; rfl
theorem Laws.OpcodeField.storep (rs1 rs2 : Reg) (imm : Int) : Laws.OpcodeField.Statement (.storep rs1 rs2 imm) := by
  intro b; rw [encode, fieldOp_wordOfFormat]; rfl
theorem Laws.OpcodeField.cmp (rs1 rs2 : Reg) : Laws.OpcodeField.Statement (.cmp rs1 rs2) := by
  intro b; rw [encode, fieldOp_wordOfFormat]; rfl
theorem Laws.OpcodeField.cml (rs1 : Reg) (imm : Int) : Laws.OpcodeField.Statement (.cml rs1 imm) := by
  intro b; rw [encode, fieldOp_wordOfFormat]; rfl
theorem Laws.OpcodeField.bp (imm : Int) : Laws.OpcodeField.Statement (.bp imm) := by
  intro b; rw [encode, fieldOp_wordOfFormat]; rfl
theorem Laws.OpcodeField.bnp (imm : Int) : Laws.OpcodeField.Statement (.bnp imm) := by
  intro b; rw [encode, fieldOp_wordOfFormat]; rfl
theorem Laws.OpcodeField.bn (imm : Int) : Laws.OpcodeField.Statement (.bn imm) := by
  intro b; rw [encode, fieldOp_wordOfFormat]; rfl
theorem Laws.OpcodeField.bnn (imm : Int) : Laws.OpcodeField.Statement (.bnn imm) := by
  intro b; rw [encode, fieldOp_wordOfFormat]; rfl
theorem Laws.OpcodeField.jump (rs1 : Reg) (imm : Int) : Laws.OpcodeField.Statement (.jump rs1 imm) := by
  intro b; rw [encode, fieldOp_wordOfFormat]; rfl
theorem Laws.OpcodeField.jalr (rd rs1 : Reg) (imm : Int) : Laws.OpcodeField.Statement (.jalr rd rs1 imm) := by
  intro b; rw [encode, fieldOp_wordOfFormat]; rfl
theorem Laws.OpcodeField.nop : Laws.OpcodeField.Statement (.nop) := by
  intro b; rw [encode, fieldOp_wordOfFormat]; rfl

theorem Laws.RecordRoundTrip.add (rd rs1 rs2 : Reg) : Laws.RecordRoundTrip.Statement (.add rd rs1 rs2) := fun _ _ => rfl
theorem Laws.RecordRoundTrip.sub (rd rs1 rs2 : Reg) : Laws.RecordRoundTrip.Statement (.sub rd rs1 rs2) := fun _ _ => rfl
theorem Laws.RecordRoundTrip.mul (rd rs1 rs2 : Reg) : Laws.RecordRoundTrip.Statement (.mul rd rs1 rs2) := fun _ _ => rfl
theorem Laws.RecordRoundTrip.div (rd rs1 rs2 : Reg) : Laws.RecordRoundTrip.Statement (.div rd rs1 rs2) := fun _ _ => rfl
theorem Laws.RecordRoundTrip.and (rd rs1 rs2 : Reg) : Laws.RecordRoundTrip.Statement (.and rd rs1 rs2) := fun _ _ => rfl
theorem Laws.RecordRoundTrip.or (rd rs1 rs2 : Reg) : Laws.RecordRoundTrip.Statement (.or rd rs1 rs2) := fun _ _ => rfl
theorem Laws.RecordRoundTrip.xor (rd rs1 rs2 : Reg) : Laws.RecordRoundTrip.Statement (.xor rd rs1 rs2) := fun _ _ => rfl
theorem Laws.RecordRoundTrip.movc (rd : Reg) (imm : Int) : Laws.RecordRoundTrip.Statement (.movc rd imm) :=
  fun _ h => congrArg some (congrArg _ (toInt_ofInt_of_immFits h))
theorem Laws.RecordRoundTrip.load (rd rs1 : Reg) (imm : Int) : Laws.RecordRoundTrip.Statement (.load rd rs1 imm) :=
  fun _ h => congrArg some (congrArg _ (toInt_ofInt_of_immFits h))
theorem Laws.RecordRoundTrip.store (rs1 rs2 : Reg) (imm : Int) : Laws.RecordRoundTrip.Statement (.store rs1 rs2 imm) :=
  fun _ h => congrArg some (congrArg _ (toInt_ofInt_of_immFits h))
theorem Laws.RecordRoundTrip.bz (imm : Int) : Laws.RecordRoundTrip.Statement (.bz imm) :=
  fun _ h => congrArg some (congrArg _ (toInt_ofInt_of_immFits h))
theorem Laws.RecordRoundTrip.bnz (imm : Int) : Laws.RecordRoundTrip.Statement (.bnz imm) :=
  fun _ h => congrArg some (congrArg _ (toInt_ofInt_of_immFits h))
theorem Laws.RecordRoundTrip.halt : Laws.RecordRoundTrip.Statement (.halt) := fun _ _ => rfl
theorem Laws.RecordRoundTrip.addl (rd rs1 : Reg) (imm : Int) : Laws.RecordRoundTrip.Statement (.addl rd rs1 imm) :=
  fun _ h => congrArg some (congrArg _ (toInt_ofInt_of_immFits h))
theorem Laws.RecordRoundTrip.subl (rd rs1 : Reg) (imm : Int) : Laws.RecordRoundTrip.Statement (.subl rd rs1 imm) :=
  fun _ h => congrArg some (congrArg _ (toInt_ofInt_of_immFits h))
theorem Laws.RecordRoundTrip.loadp (rd rs1 : Reg) (imm : Int) : Laws.RecordRoundTrip.Statement (.loadp rd rs1 imm) :=
  fun _ h => congrArg some (congrArg _ (toInt_ofInt_of_immFits h))
theorem Laws.RecordRoundTrip.storep (rs1 rs2 : Reg) (imm : Int) : Laws.RecordRoundTrip.Statement (.storep rs1 rs2 imm) :=
  fun _ h => congrArg some (congrArg _ (toInt_ofInt_of_immFits h))
theorem Laws.RecordRoundTrip.cmp (rs1 rs2 : Reg) : Laws.RecordRoundTrip.Statement (.cmp rs1 rs2) := fun _ _ => rfl
theorem Laws.RecordRoundTrip.cml (rs1 : Reg) (imm : Int) : Laws.RecordRoundTrip.Statement (.cml rs1 imm) :=
  fun _ h => congrArg some (congrArg _ (toInt_ofInt_of_immFits h))
theorem Laws.RecordRoundTrip.bp (imm : Int) : Laws.RecordRoundTrip.Statement (.bp imm) :=
  fun _ h => congrArg some (congrArg _ (toInt_ofInt_of_immFits h))
theorem Laws.RecordRoundTrip.bnp (imm : Int) : Laws.RecordRoundTrip.Statement (.bnp imm) :=
  fun _ h => congrArg some (congrArg _ (toInt_ofInt_of_immFits h))
theorem Laws.RecordRoundTrip.bn (imm : Int) : Laws.RecordRoundTrip.Statement (.bn imm) :=
  fun _ h => congrArg some (congrArg _ (toInt_ofInt_of_immFits h))
theorem Laws.RecordRoundTrip.bnn (imm : Int) : Laws.RecordRoundTrip.Statement (.bnn imm) :=
  fun _ h => congrArg some (congrArg _ (toInt_ofInt_of_immFits h))
theorem Laws.RecordRoundTrip.jump (rs1 : Reg) (imm : Int) : Laws.RecordRoundTrip.Statement (.jump rs1 imm) :=
  fun _ h => congrArg some (congrArg _ (toInt_ofInt_of_immFits h))
theorem Laws.RecordRoundTrip.jalr (rd rs1 : Reg) (imm : Int) : Laws.RecordRoundTrip.Statement (.jalr rd rs1 imm) :=
  fun _ h => congrArg some (congrArg _ (toInt_ofInt_of_immFits h))
theorem Laws.RecordRoundTrip.nop : Laws.RecordRoundTrip.Statement (.nop) := fun _ _ => rfl

end Sys2Proof
end

