-- ==== Sys2Proof/Tests/Slice0.lean ====
section
/-! SUPPORT. The author's own tests. The expected values come from spec 95_test_vectors.md (section and row named at
each group) or from the rule named. A `witness_…` theorem shows a concrete state and operands that meet the hypotheses
of the obligation of that name. -/

namespace Sys2Proof.Tests

open Sys2Proof.Machine

/-! Helpers. -/

def noFlags : Flags := ⟨false, false, false⟩
def flagZ : Flags := ⟨true, false, false⟩
def flagP : Flags := ⟨false, true, false⟩
def flagN : Flags := ⟨false, false, true⟩

/-- The default parameters with a strategy. -/
def cfg (st : Strategy) : Config := { Config.standard with strategy := st }

/-- The reset state with nothing loaded. -/
def resetCore : CoreState Config.standard := CoreState.resetWith Config.standard []

/-- The reset state with a program of words. -/
def boot (st : Strategy) (ws : List Word) : CoreState (cfg st) := CoreState.resetWith (cfg st) (ws.map Entry.word)

/-- The registers of the list preset ("a test bench facility, not an instruction"). -/
def preset {c : Config} (rs : List (Reg × c.Value)) (s : CoreState c) : CoreState c :=
  rs.foldl (fun t p => t.setReg p.1 p.2) s

/-- The reset state with presets: registers, flags, cells. -/
def bench (rs : List (Reg × Word)) (f : Flags) (cells : List (Nat × Word)) : CoreState Config.standard :=
  preset rs { resetCore with flags := f, dmem := cells }

/-- The core of a machine with the parameters `c`. -/
def coreOf (c : Config) (t : State) : Option (CoreState c) :=
  if h : t.config = c then some (h ▸ t.core) else none

/-- The state a step answers. -/
def next? (o : Host.Outcome State Fault Refusal) : Option State :=
  match o with
  | .next t => some t
  | _ => none

/-- The core after the one instruction `w`. -/
def after (w : Nat) (rs : List (Reg × Word)) (f : Flags) (cells : List (Nat × Word)) :
    Option (CoreState Config.standard) :=
  (next? (step (((bench rs f cells).onLayer .pipeline).withFetchWord 32 w))).bind (coreOf Config.standard)

/-- `n` ticks. -/
def ticks {c : Config} : Nat → CoreState c → CoreState c
  | 0, s => s
  | n + 1, s => ticks n (tick s)

/-! Well-formedness: each immediate just inside the range of rule R73, and just outside it. -/

theorem test_wf_movc :
    Instr.wf 16 (.movc 4 32767) = true ∧ Instr.wf 16 (.movc 4 (-32768)) = true ∧ Instr.wf 16 (.movc 4 32768) = false ∧
      Instr.wf 16 (.movc 4 (-32769)) = false := by decide
theorem test_wf_load :
    Instr.wf 16 (.load 4 1 32767) = true ∧ Instr.wf 16 (.load 4 1 (-32768)) = true ∧
      Instr.wf 16 (.load 4 1 32768) = false ∧
      Instr.wf 16 (.load 4 1 (-32769)) = false := by decide
theorem test_wf_store :
    Instr.wf 16 (.store 2 1 32767) = true ∧ Instr.wf 16 (.store 2 1 (-32768)) = true ∧
      Instr.wf 16 (.store 2 1 32768) = false ∧
      Instr.wf 16 (.store 2 1 (-32769)) = false := by decide
theorem test_wf_bz :
    Instr.wf 16 (.bz 32767) = true ∧ Instr.wf 16 (.bz (-32768)) = true ∧ Instr.wf 16 (.bz 32768) = false ∧
      Instr.wf 16 (.bz (-32769)) = false := by decide
theorem test_wf_bnz :
    Instr.wf 16 (.bnz 32767) = true ∧ Instr.wf 16 (.bnz (-32768)) = true ∧ Instr.wf 16 (.bnz 32768) = false ∧
      Instr.wf 16 (.bnz (-32769)) = false := by decide
theorem test_wf_addl :
    Instr.wf 16 (.addl 3 1 32767) = true ∧ Instr.wf 16 (.addl 3 1 (-32768)) = true ∧
      Instr.wf 16 (.addl 3 1 32768) = false ∧
      Instr.wf 16 (.addl 3 1 (-32769)) = false := by decide
theorem test_wf_subl :
    Instr.wf 16 (.subl 3 1 32767) = true ∧ Instr.wf 16 (.subl 3 1 (-32768)) = true ∧
      Instr.wf 16 (.subl 3 1 32768) = false ∧
      Instr.wf 16 (.subl 3 1 (-32769)) = false := by decide
theorem test_wf_loadp :
    Instr.wf 16 (.loadp 4 1 32767) = true ∧ Instr.wf 16 (.loadp 4 1 (-32768)) = true ∧
      Instr.wf 16 (.loadp 4 1 32768) = false ∧
      Instr.wf 16 (.loadp 4 1 (-32769)) = false := by decide
theorem test_wf_storep :
    Instr.wf 16 (.storep 2 1 32767) = true ∧ Instr.wf 16 (.storep 2 1 (-32768)) = true ∧
      Instr.wf 16 (.storep 2 1 32768) = false ∧
      Instr.wf 16 (.storep 2 1 (-32769)) = false := by decide
theorem test_wf_cml :
    Instr.wf 16 (.cml 1 32767) = true ∧ Instr.wf 16 (.cml 1 (-32768)) = true ∧ Instr.wf 16 (.cml 1 32768) = false ∧
      Instr.wf 16 (.cml 1 (-32769)) = false := by decide
theorem test_wf_bp :
    Instr.wf 16 (.bp 32767) = true ∧ Instr.wf 16 (.bp (-32768)) = true ∧ Instr.wf 16 (.bp 32768) = false ∧
      Instr.wf 16 (.bp (-32769)) = false := by decide
theorem test_wf_bnp :
    Instr.wf 16 (.bnp 32767) = true ∧ Instr.wf 16 (.bnp (-32768)) = true ∧ Instr.wf 16 (.bnp 32768) = false ∧
      Instr.wf 16 (.bnp (-32769)) = false := by decide
theorem test_wf_bn :
    Instr.wf 16 (.bn 32767) = true ∧ Instr.wf 16 (.bn (-32768)) = true ∧ Instr.wf 16 (.bn 32768) = false ∧
      Instr.wf 16 (.bn (-32769)) = false := by decide
theorem test_wf_bnn :
    Instr.wf 16 (.bnn 32767) = true ∧ Instr.wf 16 (.bnn (-32768)) = true ∧ Instr.wf 16 (.bnn 32768) = false ∧
      Instr.wf 16 (.bnn (-32769)) = false := by decide
theorem test_wf_jump :
    Instr.wf 16 (.jump 31 32767) = true ∧ Instr.wf 16 (.jump 31 (-32768)) = true ∧
      Instr.wf 16 (.jump 31 32768) = false ∧
      Instr.wf 16 (.jump 31 (-32769)) = false := by decide
theorem test_wf_jalr :
    Instr.wf 16 (.jalr 31 1 32767) = true ∧ Instr.wf 16 (.jalr 31 1 (-32768)) = true ∧
      Instr.wf 16 (.jalr 31 1 32768) = false ∧
      Instr.wf 16 (.jalr 31 1 (-32769)) = false := by decide
theorem test_wf_no_immediate :
    [Instr.add 31 0 31, .sub 0 0 0, .mul 1 2 3, .div 1 2 3, .and 1 2 3, .or 1 2 3, .xor 1 2 3, .cmp 31 31, .halt,
      .nop].all (Instr.wf 16) = true := by decide

/-! Decoding: the words of 95_test_vectors.md section 2, and the same word written field by field from the formats of
rule R72 and the opcode numbers of rule R74. -/

theorem test_decode_add :
    decode 16 0x00410800 = .ok (.add 2 1 1) ∧ encode 16 (.add 2 1 1) = 0x00410800 ∧
      (0x00410800 : Word) = 0b000000#6 ++ 0b00010#5 ++ 0b00001#5 ++ 0b00001#5 ++ 0#11 := by decide
theorem test_decode_sub :
    decode 16 0x04611000 = .ok (.sub 3 1 2) ∧ encode 16 (.sub 3 1 2) = 0x04611000 ∧
      (0x04611000 : Word) = 0b000001#6 ++ 0b00011#5 ++ 0b00001#5 ++ 0b00010#5 ++ 0#11 := by decide
theorem test_decode_mul :
    decode 16 0x08611000 = .ok (.mul 3 1 2) ∧ encode 16 (.mul 3 1 2) = 0x08611000 ∧
      (0x08611000 : Word) = 0b000010#6 ++ 0b00011#5 ++ 0b00001#5 ++ 0b00010#5 ++ 0#11 := by decide
theorem test_decode_div :
    decode 16 0x0C611000 = .ok (.div 3 1 2) ∧ encode 16 (.div 3 1 2) = 0x0C611000 ∧
      (0x0C611000 : Word) = 0b000011#6 ++ 0b00011#5 ++ 0b00001#5 ++ 0b00010#5 ++ 0#11 := by decide
theorem test_decode_and :
    decode 16 0x10611000 = .ok (.and 3 1 2) ∧ encode 16 (.and 3 1 2) = 0x10611000 ∧
      (0x10611000 : Word) = 0b000100#6 ++ 0b00011#5 ++ 0b00001#5 ++ 0b00010#5 ++ 0#11 := by decide
theorem test_decode_or :
    decode 16 0x14611000 = .ok (.or 3 1 2) ∧ encode 16 (.or 3 1 2) = 0x14611000 ∧
      (0x14611000 : Word) = 0b000101#6 ++ 0b00011#5 ++ 0b00001#5 ++ 0b00010#5 ++ 0#11 := by decide
theorem test_decode_xor :
    decode 16 0x18611000 = .ok (.xor 3 1 2) ∧ encode 16 (.xor 3 1 2) = 0x18611000 ∧
      (0x18611000 : Word) = 0b000110#6 ++ 0b00011#5 ++ 0b00001#5 ++ 0b00010#5 ++ 0#11 := by decide
theorem test_decode_movc :
    decode 16 0x1C80FFFF = .ok (.movc 4 (-1)) ∧ encode 16 (.movc 4 (-1)) = 0x1C80FFFF ∧
      (0x1C80FFFF : Word) = 0b000111#6 ++ 0b00100#5 ++ 0b00000#5 ++ 0b1111111111111111#16 := by decide
theorem test_decode_load :
    decode 16 0x20810008 = .ok (.load 4 1 8) ∧ encode 16 (.load 4 1 8) = 0x20810008 ∧
      (0x20810008 : Word) = 0b001000#6 ++ 0b00100#5 ++ 0b00001#5 ++ 0b0000000000001000#16 := by decide
theorem test_decode_store :
    decode 16 0x24410008 = .ok (.store 2 1 8) ∧ encode 16 (.store 2 1 8) = 0x24410008 ∧
      (0x24410008 : Word) = 0b001001#6 ++ 0b00010#5 ++ 0b00001#5 ++ 0b0000000000001000#16 := by decide
theorem test_decode_bz :
    decode 16 0x28000008 = .ok (.bz 8) ∧ encode 16 (.bz 8) = 0x28000008 ∧
      (0x28000008 : Word) = 0b001010#6 ++ 0b00000#5 ++ 0b00000#5 ++ 0b0000000000001000#16 := by decide
theorem test_decode_bnz :
    decode 16 0x2C00FFF8 = .ok (.bnz (-8)) ∧ encode 16 (.bnz (-8)) = 0x2C00FFF8 ∧
      (0x2C00FFF8 : Word) = 0b001011#6 ++ 0b00000#5 ++ 0b00000#5 ++ 0b1111111111111000#16 := by decide
theorem test_decode_halt :
    decode 16 0x30000000 = .ok (.halt) ∧ encode 16 (.halt) = 0x30000000 ∧
      (0x30000000 : Word) = 0b001100#6 ++ 0#26 := by decide
theorem test_decode_addl :
    decode 16 0x3461FFFE = .ok (.addl 3 1 (-2)) ∧ encode 16 (.addl 3 1 (-2)) = 0x3461FFFE ∧
      (0x3461FFFE : Word) = 0b001101#6 ++ 0b00011#5 ++ 0b00001#5 ++ 0b1111111111111110#16 := by decide
theorem test_decode_subl :
    decode 16 0x3861000A = .ok (.subl 3 1 10) ∧ encode 16 (.subl 3 1 10) = 0x3861000A ∧
      (0x3861000A : Word) = 0b001110#6 ++ 0b00011#5 ++ 0b00001#5 ++ 0b0000000000001010#16 := by decide
theorem test_decode_loadp :
    decode 16 0x3C810000 = .ok (.loadp 4 1 0) ∧ encode 16 (.loadp 4 1 0) = 0x3C810000 ∧
      (0x3C810000 : Word) = 0b001111#6 ++ 0b00100#5 ++ 0b00001#5 ++ 0b0000000000000000#16 := by decide
theorem test_decode_storep :
    decode 16 0x40410000 = .ok (.storep 2 1 0) ∧ encode 16 (.storep 2 1 0) = 0x40410000 ∧
      (0x40410000 : Word) = 0b010000#6 ++ 0b00010#5 ++ 0b00001#5 ++ 0b0000000000000000#16 := by decide
theorem test_decode_cmp :
    decode 16 0x44011000 = .ok (.cmp 1 2) ∧ encode 16 (.cmp 1 2) = 0x44011000 ∧
      (0x44011000 : Word) = 0b010001#6 ++ 0b00000#5 ++ 0b00001#5 ++ 0b00010#5 ++ 0#11 := by decide
theorem test_decode_cml :
    decode 16 0x48010007 = .ok (.cml 1 7) ∧ encode 16 (.cml 1 7) = 0x48010007 ∧
      (0x48010007 : Word) = 0b010010#6 ++ 0b00000#5 ++ 0b00001#5 ++ 0b0000000000000111#16 := by decide
theorem test_decode_bp :
    decode 16 0x4C000008 = .ok (.bp 8) ∧ encode 16 (.bp 8) = 0x4C000008 ∧
      (0x4C000008 : Word) = 0b010011#6 ++ 0b00000#5 ++ 0b00000#5 ++ 0b0000000000001000#16 := by decide
theorem test_decode_bnp :
    decode 16 0x50000008 = .ok (.bnp 8) ∧ encode 16 (.bnp 8) = 0x50000008 ∧
      (0x50000008 : Word) = 0b010100#6 ++ 0b00000#5 ++ 0b00000#5 ++ 0b0000000000001000#16 := by decide
theorem test_decode_bn :
    decode 16 0x54000008 = .ok (.bn 8) ∧ encode 16 (.bn 8) = 0x54000008 ∧
      (0x54000008 : Word) = 0b010101#6 ++ 0b00000#5 ++ 0b00000#5 ++ 0b0000000000001000#16 := by decide
theorem test_decode_bnn :
    decode 16 0x58000008 = .ok (.bnn 8) ∧ encode 16 (.bnn 8) = 0x58000008 ∧
      (0x58000008 : Word) = 0b010110#6 ++ 0b00000#5 ++ 0b00000#5 ++ 0b0000000000001000#16 := by decide
theorem test_decode_jump :
    decode 16 0x5C1F0000 = .ok (.jump 31 0) ∧ encode 16 (.jump 31 0) = 0x5C1F0000 ∧
      (0x5C1F0000 : Word) = 0b010111#6 ++ 0b00000#5 ++ 0b11111#5 ++ 0b0000000000000000#16 := by decide
theorem test_decode_jalr :
    decode 16 0x63E10000 = .ok (.jalr 31 1 0) ∧ encode 16 (.jalr 31 1 0) = 0x63E10000 ∧
      (0x63E10000 : Word) = 0b011000#6 ++ 0b11111#5 ++ 0b00001#5 ++ 0b0000000000000000#16 := by decide
theorem test_decode_nop :
    decode 16 0x64000000 = .ok (.nop) ∧ encode 16 (.nop) = 0x64000000 ∧
      (0x64000000 : Word) = 0b011001#6 ++ 0#26 := by decide

/-! Decoder corner cases (95_test_vectors.md section 2, second table). -/

theorem test_decode_all_zero : decode 16 0x00000000 = .ok (.add 0 0 0) := by decide
theorem test_decode_r3_unused :
    decode 16 0x004107FF = .ok (.add 2 1 0) ∧ decode 16 0x0041FFFF = .ok (.add 2 1 31) := by decide
theorem test_decode_z_unused : decode 16 0x33FFFFFF = .ok .halt ∧ decode 16 0x67FFFFFF = .ok .nop := by decide
theorem test_decode_br_mc_cr_unused :
    decode 16 0x2BFF0008 = .ok (.bz 8) ∧ decode 16 0x1C3F0005 = .ok (.movc 1 5) ∧
      decode 16 0x47E11000 = .ok (.cmp 1 2) := by
  decide
theorem test_decode_min_immediate : decode 16 0x1C208000 = .ok (.movc 1 (-32768)) := by decide
theorem test_decode_reserved :
    decode 16 0x68000000 = .error (.reservedOpcode 26) ∧ decode 16 0xFC000000 = .error (.reservedOpcode 63) ∧
      decode 16 0xFFFFFFFF = .error (.reservedOpcode 63) ∧
      Record.ofWord 16 0xFFFFFFFF = ⟨.invalid, 0, 0, 0, 0⟩ := by decide
theorem test_table_word : decodeTableWord 32 0x24410008 = some (.store 2 1 8) := by decide
theorem test_text :
    Instr.text (.store 2 1 8) = "STORE R2,R1,#8" ∧ Instr.text (.bnz (-8)) = "BNZ #-8" ∧
      Instr.text .halt = "HALT" := by decide

/-! One instruction on the sequential layer (95_test_vectors.md sections 3.1 to 3.3). -/

theorem test_add_wraps :
    (after 0x00611000 [(1, 0x7FFFFFFF), (2, 1)] noFlags []).map (fun t => (t.reg 3, t.flags)) =
      some (0x80000000, flagN) := by decide
theorem test_add_self :
    (after 0x00210800 [(1, 0x80000000)] noFlags []).map (fun t => (t.reg 1, t.flags)) = some (0, flagZ) := by decide
theorem test_sub_negative :
    (after 0x04611000 [(1, 5), (2, 7)] noFlags []).map (fun t => (t.reg 3, t.flags)) =
      some (0xFFFFFFFE, flagN) := by decide
theorem test_sub_wraps :
    (after 0x04611000 [(1, 0x80000000), (2, 1)] noFlags []).map (fun t => (t.reg 3, t.flags)) =
      some (0x7FFFFFFF, flagP) := by decide
theorem test_mul_low_bits :
    (after 0x08611000 [(1, 0x00010000), (2, 0x00010000)] noFlags []).map (fun t => (t.reg 3, t.flags)) =
      some (0, flagZ) := by decide
theorem test_mul_signed :
    (after 0x08611000 [(1, 0xFFFFFFFD), (2, 7)] noFlags []).map (fun t => (t.reg 3, t.flags)) =
      some (0xFFFFFFEB, flagN) := by decide
theorem test_div_toward_zero :
    (after 0x0C611000 [(1, 0xFFFFFFF9), (2, 2)] noFlags []).map (fun t => (t.reg 3, t.flags)) =
      some (0xFFFFFFFD, flagN) := by decide
theorem test_div_overflow :
    (after 0x0C611000 [(1, 0x80000000), (2, 0xFFFFFFFF)] noFlags []).map (fun t => (t.reg 3, t.flags)) =
      some (0x80000000, flagN) := by decide
theorem test_and :
    (after 0x10611000 [(1, 0xFF00FF00), (2, 0x0FF00FF0)] flagZ []).map (fun t => (t.reg 3, t.flags)) =
      some (0x0F000F00, flagZ) := by decide
theorem test_or :
    (after 0x14611000 [(1, 0xFF00FF00), (2, 0x0FF00FF0)] flagZ []).map (fun t => (t.reg 3, t.flags)) =
      some (0xFFF0FFF0, flagZ) := by decide
theorem test_xor :
    (after 0x18611000 [(1, 0xFF00FF00), (2, 0x0FF00FF0)] flagZ []).map (fun t => (t.reg 3, t.flags)) =
      some (0xF0F0F0F0, flagZ) := by decide
theorem test_xor_self :
    (after 0x18610800 [(1, 0xDEADBEEF)] flagP []).map (fun t => (t.reg 3, t.flags)) = some (0, flagP) := by decide
theorem test_addl :
    (after 0x3461FFFE [(1, 1)] noFlags []).map (fun t => (t.reg 3, t.flags)) = some (0xFFFFFFFF, flagN) := by decide
theorem test_addl_wraps :
    (after 0x34617FFF [(1, 0x7FFFFFFF)] noFlags []).map (fun t => (t.reg 3, t.flags)) =
      some (0x80007FFE, flagN) := by decide
theorem test_subl :
    (after 0x38610001 [(1, 1)] noFlags []).map (fun t => (t.reg 3, t.flags)) = some (0, flagZ) := by decide
theorem test_subl_minus_one :
    (after 0x3861FFFF [(1, 0x7FFFFFFF)] noFlags []).map (fun t => (t.reg 3, t.flags)) =
      some (0x80000000, flagN) := by decide
theorem test_movc_minus_one :
    (after 0x1C80FFFF [] flagZ []).map (fun t => (t.reg 4, t.flags)) = some (0xFFFFFFFF, flagZ) := by decide
theorem test_movc_min :
    (after 0x1C808000 [] flagZ []).map (fun t => (t.reg 4, t.flags)) = some (0xFFFF8000, flagZ) := by decide
theorem test_cmp_as_integers :
    (after 0x44011000 [(1, 0x80000000), (2, 1)] noFlags []).map (fun t =>
        (t.flags, t.x == (bench [(1, 0x80000000), (2, 1)] noFlags []).x)) =
      some (flagN, true) := by decide
theorem test_cmp_equal :
    (after 0x44011000 [(1, 5), (2, 5)] noFlags []).map (fun t => t.flags) = some flagZ := by decide
theorem test_cml_below :
    (after 0x4801FFFF [(1, 0xFFFFFFFE)] noFlags []).map (fun t => t.flags) = some flagN := by decide
theorem test_cml_min :
    (after 0x48018000 [(1, 0x7FFFFFFF)] noFlags []).map (fun t => t.flags) = some flagP := by decide
theorem test_load_keeps_flags :
    (after 0x20810008 [(1, 100)] flagZ [(108, 0x80000000)]).map (fun t => (t.reg 4, t.flags)) =
      some (0x80000000, flagZ) := by decide
theorem test_load_outside :
    (after 0x2081FFFF [(1, 0)] noFlags []).map (fun t => (t.fault, t.retired, t.pc)) =
      some (⟨.memoryFault, 4000, 0xFFFFFFFF⟩, 0, 4000) := by decide
theorem test_loadp_base_not_address :
    (after 0x3C810004 [(1, 100)] noFlags [(104, 9)]).map (fun t => (t.reg 4, t.reg 1)) = some (9, 104) := by decide
theorem test_loadp_same_register :
    (after 0x3C210000 [(1, 10)] noFlags [(10, 21)]).map (fun t => t.reg 1) = some 21 := by decide
theorem test_store :
    (after 0x24410008 [(1, 100), (2, 9)] noFlags []).map (fun t => t.dmem) = some [(108, 9)] := by decide
theorem test_store_outside :
    (after 0x24410000 [(1, 4096), (2, 9)] noFlags []).map (fun t => (t.dmem, t.fault)) =
      some ([], ⟨.memoryFault, 4000, 4096⟩) := by decide
theorem test_storep :
    (after 0x4041FFFF [(1, 101), (2, 7)] noFlags []).map (fun t => (t.dmem, t.reg 1)) =
      some ([(100, 7)], 105) := by decide
theorem test_storep_same_register :
    (after 0x40210000 [(1, 12)] noFlags []).map (fun t => (t.dmem, t.reg 1)) = some ([(12, 12)], 16) := by decide
theorem test_bz_taken :
    (after 0x28000008 [] flagZ []).map (fun t => t.pc) = some 4008 := by decide
theorem test_bz_not_taken :
    (after 0x28000008 [] flagP []).map (fun t => t.pc) = some 4004 := by decide
theorem test_bnz_taken :
    (after 0x2C000008 [] noFlags []).map (fun t => t.pc) = some 4008 := by decide
theorem test_bnz_not_taken :
    (after 0x2C000008 [] flagZ []).map (fun t => t.pc) = some 4004 := by decide
theorem test_bp_taken :
    (after 0x4C000008 [] flagP []).map (fun t => t.pc) = some 4008 := by decide
theorem test_bp_not_taken :
    (after 0x4C000008 [] flagZ []).map (fun t => t.pc) = some 4004 := by decide
theorem test_bnp_taken :
    (after 0x50000008 [] flagZ []).map (fun t => t.pc) = some 4008 := by decide
theorem test_bnp_not_taken :
    (after 0x50000008 [] flagP []).map (fun t => t.pc) = some 4004 := by decide
theorem test_bn_taken :
    (after 0x54000008 [] flagN []).map (fun t => t.pc) = some 4008 := by decide
theorem test_bn_not_taken :
    (after 0x54000008 [] flagP []).map (fun t => t.pc) = some 4004 := by decide
theorem test_bnn_taken :
    (after 0x58000008 [] flagP []).map (fun t => t.pc) = some 4008 := by decide
theorem test_bnn_not_taken :
    (after 0x58000008 [] flagN []).map (fun t => t.pc) = some 4004 := by decide
theorem test_jump :
    (after 0x5C010008 [(1, 4004)] noFlags []).map (fun t => (t.pc, t.reg 1)) = some (4012, 4004) := by decide
theorem test_jump_misaligned :
    (after 0x5C010001 [(1, 4004)] noFlags []).map (fun t => (t.pc, t.fault)) =
      some (4000, ⟨.misalignedTarget, 4000, 4005⟩) := by decide
theorem test_jalr_same_register :
    (after 0x60210000 [(1, 4008)] noFlags []).map (fun t => (t.pc, t.reg 1)) = some (4008, 4004) := by decide
theorem test_jalr_misaligned :
    (after 0x60A10002 [(1, 4004)] noFlags []).map (fun t => (t.reg 5, t.fault)) =
      some (0, ⟨.misalignedTarget, 4000, 4006⟩) := by decide
theorem test_nop :
    (after 0x64000000 [] flagP []).map (fun t => (t.pc, t.flags, t.halted)) = some (4004, flagP, false) := by decide
theorem test_halt :
    (after 0x30000000 [] flagP []).map (fun t => (t.pc, t.retired, t.halted)) = some (4004, 1, true) := by decide

/-! Reset (rule R240): the canonical memory, and the reset core has no program to run. -/

theorem test_reset_memory : memoryWf State.reset.core.dmem = true ∧ State.reset.core.pc = 4000 := by decide
theorem test_reset_without_program : step State.reset = .refused .noProgram := rfl
theorem test_misplaced_program :
    step (State.boot { Config.standard with codeBase := 4002 } [.word 0x64000000]) = .refused .badConfiguration := rfl
theorem test_program_past_the_end :
    step (State.boot { Config.standard with codeBase := 0xFFFFFFFC } [.word 0, .word 0]) =
      .refused .badConfiguration := rfl

/-! Other values of the parameters (rule R5). The expected values are computed by hand from the rules named. -/

/-- A core of 8-bit values with 8-bit immediates, 2-bit counters and 16 cells, its program at 0. -/
def smallCfg : Config where
  xlen := 8
  immBits := 8
  counterBits := 2
  codeBase := 0
  dmemSize := 16
  postincStep := 1
  strategy := .forwarding

/-- The small core with a program of words. -/
def smallBoot (ws : List Word) : CoreState smallCfg := CoreState.resetWith smallCfg (ws.map Entry.word)

/-- The immediate is bits 7:0 sign-extended, bits 15:8 are unused (rules R5, R73, R77). -/
theorem test_small_immediate :
    decode 8 0x1C20AA7F = .ok (.movc 1 127) ∧ decode 8 0x1C200080 = .ok (.movc 1 (-128)) ∧
      encode 8 (.movc 1 (-1)) = 0x1C2000FF ∧ Instr.wf 8 (.movc 1 128) = false := by decide

/-- `MOVC R1,#127 ; ADDL R1,R1,#1`: the sum wraps at 8 bits (rules R9, R98) and is negative. -/
theorem test_small_add_wraps :
    let t := ticks 7 (smallBoot [0x1C20007F, 0x34210001, 0x64000000])
    t.reg 1 = 0x80 ∧ t.flags = flagN := by decide +kernel

/-- The counters wrap at their width (rule R30). -/
theorem test_small_counters_wrap :
    let t := ticks 7 (smallBoot [0x64000000, 0x64000000])
    t.cycles = 3 ∧ t.retired = 2 ∧ (ticks 1 t).cycles = 0 := by decide +kernel

/-- Two entries fill an address space of 3 bits: the address after the last one is 0, and it is fetched from (log
entry 19). -/
theorem test_wrapped_pc_is_fetchable :
    let c : Config := { Config.standard with xlen := 3, immBits := 3, codeBase := 0 }
    let s := CoreState.resetWith c [.word 0x64000000, .word 0x30000000]
    s.bootProblem = none ∧ nextPc (4 : c.Value) = 0 ∧ s.entryAt (nextPc (4 : c.Value)) = some (.word 0x64000000) := by
  decide

/-! The pipeline (95_test_vectors.md sections 3.3 to 3.6 and 4): a few ticks each. -/

/-- Program P1, `MOVC R1,#5 ; ADD R2,R1,R1 ; HALT`. -/
def p1 (st : Strategy) : CoreState (cfg st) := boot st [0x1C200005, 0x00410800, 0x30000000]

theorem test_p1_stall_tick3 :
    let t := ticks 3 (p1 .stallOnly)
    t.stall = true ∧ t.pc = 4008 ∧ t.lF.pc = 4008 ∧ t.lD.pc = 4004 ∧ t.lEX.valid = false ∧
      t.busyBit 1 = true := by decide +kernel

theorem test_p1_stall_tick5 :
    let t := ticks 5 (p1 .stallOnly)
    t.stall = false ∧ t.pc = 4012 ∧ t.lEX.rs1Value = 5 ∧ t.reg 1 = 5 ∧ t.retired = 1 := by decide +kernel

theorem test_p1_forwarding_tick3 :
    let t := ticks 3 (p1 .forwarding)
    t.stall = false ∧ t.pc = 4012 ∧ t.lEX.rs1Value = 5 ∧ t.lEX.rs2Value = 5 ∧ t.reg 1 = 0 := by decide +kernel

theorem test_branch_redirect :
    let t := ticks 3 ({ boot .forwarding [0x28000008, 0x1C200001, 0x30000000] with flags := flagZ })
    t.pc = 4008 ∧ t.lD.valid = false ∧ t.lF.valid = false ∧ t.redirectPending = false ∧
      t.btb[0] = ⟨true, 4000, false, true, 4008⟩ := by decide +kernel

theorem test_branch_seed :
    let t := ticks 2 (boot .forwarding [0x2C000008, 0x1C200001, 0x30000000])
    t.btb[0] = ⟨true, 4000, true, true, 4008⟩ ∧ t.lEX.btbHit = false ∧ t.lEX.predTaken = false := by
  decide +kernel

theorem test_branch_history_before_alignment :
    let t := ticks 3 ({ boot .stallOnly [0x28000006, 0x30000000] with flags := flagZ })
    t.fault = ⟨.misalignedTarget, 4000, 4006⟩ ∧ t.cycles = 3 ∧ t.retired = 0 ∧
      t.btb[0] = ⟨true, 4000, false, true, 4006⟩ := by decide +kernel

theorem test_invalid_word_faults :
    let t := ticks 4 (boot .stallOnly [0x1C200001, 0x68000000, 0x30000000])
    t.fault = ⟨.invalidOpcode, 4004, 0⟩ ∧ t.cycles = 4 ∧ t.retired = 0 ∧ t.reg 1 = 0 ∧ t.lWB.valid = true ∧
      t.lWB.rd = 1 ∧ t.lWB.result = 1 := by decide +kernel

theorem test_memory_fault_is_precise :
    let t := ticks 5 (boot .forwarding [0x1C400003, 0x2081FFFF, 0x00A21000, 0x30000000])
    t.fault = ⟨.memoryFault, 4004, 0xFFFFFFFF⟩ ∧ t.cycles = 5 ∧ t.retired = 1 ∧ t.reg 2 = 3 := by decide +kernel

theorem test_load_use_stall :
    let s := preset [(1, 10)] { boot .forwarding [0x20810000, 0x00A42000, 0x30000000] with dmem := [(10, 21)] }
    (ticks 3 s).stall = true ∧ (ticks 4 s).stall = false ∧ (ticks 4 s).lEX.rs1Value = 21 := by decide +kernel

/-- `ADDL R3,R2,#1` has no second source: its latch keeps 0 there, whatever `R0` holds (rules R32, R188). -/
theorem test_unused_operand_field_keeps_value :
    let t := ticks 2 (preset [(0, 9), (2, 5)] (boot .stallOnly [0x34620001, 0x30000000]))
    t.lEX.valid = true ∧ t.lEX.rs1Value = 5 ∧ t.lEX.rs2 = 0 ∧ t.lEX.rs2Value = 0 := by decide +kernel

theorem test_runs_off_the_end :
    let t := ticks 6 (boot .stallOnly [0x1C200001, 0x64000000])
    t.pc = 4008 ∧ t.reg 1 = 1 ∧ t.retired = 2 ∧ t.halted = false ∧ t.lWB.valid = false ∧
      (tick t).cycles = 7 := by decide +kernel

/-! Witnesses: encoding. -/

theorem witness_DecodeEncodeAgree :
    Instr.wf 16 (.store 31 31 (-32768)) = true ∧ Instr.wf 16 (.jalr 31 0 32767) = true ∧
      Instr.wf 16 (.movc 0 32768) = false ∧ Instr.wf 5 (.bz (-16)) = true ∧ Instr.wf 5 (.bz 16) = false := by decide

theorem witness_UnusedBitsIgnored : (fieldOp 0x67FFFFFF).toNat ≤ 25 ∧ (fieldOp 0).toNat ≤ 25 := by decide

theorem witness_ReservedOpcodesRejected :
    26 ≤ (fieldOp 0x68000000).toNat ∧ 26 ≤ (fieldOp 0xFFFFFFFF).toNat ∧ (fieldOp 0x67FFFFFF).toNat ≤ 25 := by decide

/-! Witnesses: arithmetic and flags. -/

theorem witness_DivisionCompletes : (bench [(1, 0x80000000), (2, 0xFFFFFFFF)] noFlags []).reg 2 ≠ 0 := by decide

theorem witness_DivisionByZeroFaults : (bench [(1, 7)] noFlags []).reg 2 = 0 := by decide

/-- A latch with a kind, operands and an immediate, at address 4000. -/
def latchOf (k : Kind) (a b imm : Word) : Latch 32 :=
  { Latch.empty with kind := k, rs1Value := a, rs2Value := b, imm := imm, valid := true, pc := 4000 }

theorem witness_SetFlagsRule :
    [Kind.add, .sub, .mul, .div, .addl, .subl].all (fun k =>
      match exKind (latchOf k 0x80000000 1 1) resetCore with
      | .pass _ _ => true
      | .raise _ => false) = true := by decide

theorem witness_CompareFlagsRule : (latchOf .cmp 1 2 0).kind = .cmp ∧ (latchOf .cml 1 2 0).kind = .cml ∧
    (2 * ((0x80000000 : Word).toInt - (1 : Word).toInt) < -2 ^ 32 ∨
      2 ^ 32 ≤ 2 * ((0x80000000 : Word).toInt - (1 : Word).toInt)) := by decide

theorem witness_OnlyFlagSettersChangeFlags :
    (∃ t : CoreState Config.standard, exec (.cmp 1 2) (resetCore.onLayer .sequential) = .next (t.onLayer .sequential) ∧
        t.flags ≠ resetCore.flags) ∧
      (tick { resetCore with lEX := latchOf .cmp 1 2 0 }).flags ≠
        { resetCore with lEX := latchOf .cmp 1 2 0 }.flags :=
  ⟨⟨(resetCore.setFlags (.ofCompare 0 0)).retireNext, rfl, by decide⟩, by decide⟩

/-! Witnesses: loads and stores, at the last cell and the first address after it. -/

theorem witness_LoadCompletes :
    (effAddr ((bench [(1, 4095)] noFlags []).reg 1) (immValue Config.standard 0)).toNat < Config.standard.dmemSize := by
  decide

theorem witness_LoadpCompletes :
    (effAddr ((bench [(1, 4096)] noFlags []).reg 1) (immValue Config.standard (-1))).toNat <
        Config.standard.dmemSize ∧ (4 : Reg) ≠ 1 := by decide

theorem witness_StoreCompletes :
    let s := bench [(1, 4095), (2, 9)] noFlags [(108, 77)]
    s.memoryOk = true ∧ (effAddr (s.reg 1) (immValue Config.standard 0)).toNat < Config.standard.dmemSize := by decide

theorem witness_StorepCompletes :
    let s := bench [(1, 4)] noFlags [(0, 1), (4095, 77)]
    s.memoryOk = true ∧ (effAddr (s.reg 1) (immValue Config.standard (-4))).toNat < Config.standard.dmemSize := by
  decide

theorem witness_AccessOutsideMemoryFaults :
    Config.standard.dmemSize ≤
        (effAddr ((bench [(1, 4096)] noFlags []).reg 1) (immValue Config.standard 0)).toNat ∧
      Config.standard.dmemSize ≤
        (effAddr ((bench [] noFlags []).reg 1) (immValue Config.standard (-1))).toNat := by decide

theorem witness_BoundsCheckSignedUnsigned :
    2 * Config.standard.dmemSize ≤ 2 ^ Config.standard.xlen ∧
      2 * { Config.standard with dmemSize := 2 ^ 31 }.dmemSize ≤ 2 ^ Config.standard.xlen := by decide

/-- A store to cell 5, a younger one to cell 6, and a load of cell 5. -/
theorem witness_LoadReturnsYoungestStore :
    let older : List (Latch 32) :=
      [{ latchOf .store 9 0 0 with memAddr := 5 }, { latchOf .storep 8 0 0 with memAddr := 6 }]
    let l : Latch 32 := { latchOf .load 0 0 0 with memAddr := 5 }
    resetCore.dmem = [] ∧ (∀ k ∈ older, k.memAddr.toNat < Config.standard.dmemSize) ∧ l.valid = true ∧
      isLoad l.kind = true ∧ l.memAddr.toNat < Config.standard.dmemSize ∧
      older.any (fun k => k.valid && isStore k.kind && decide (k.memAddr = l.memAddr)) = true := by decide

/-- A core whose Memory stage holds `l`. -/
def inMemoryStage (l : Latch 32) : CoreState (cfg .forwarding) := { boot .forwarding [0x64000000] with lMEM := l }

theorem witness_OnlyStoresWriteMemory :
    let s := inMemoryStage { latchOf .store 9 0 0 with memAddr := 4095 }
    (tick s).dmem ≠ s.dmem := by decide

/-! Witnesses: control transfer, each clause of each branch. -/

theorem witness_BranchesComplete :
    let z := bench [] flagZ []
    let p := bench [] flagP []
    let n := bench [] flagN []
    (z.flags.z = true ∧ ¬p.flags.z = true) ∧ (p.flags.z = false ∧ ¬z.flags.z = false) ∧
      (p.flags.p = true ∧ ¬z.flags.p = true) ∧ (z.flags.p = false ∧ ¬p.flags.p = false) ∧
      (n.flags.n = true ∧ ¬p.flags.n = true) ∧ (p.flags.n = false ∧ ¬n.flags.n = false) ∧
      aligned (z.pc + (-8)) = true ∧ aligned (z.pc + 32764) = true ∧ aligned (z.pc + 6) = false := by decide

theorem witness_JumpsComplete :
    aligned ((bench [(1, 0xFFFFFFFC)] noFlags []).reg 1 + 4) = true ∧
      aligned ((bench [(1, 4012)] noFlags []).reg 1 + (-4)) = true := by decide

theorem witness_MisalignedJumpsFault :
    aligned ((bench [(1, 4004)] noFlags []).reg 1 + 1) = false ∧
      aligned ((bench [(1, 4004)] noFlags []).reg 1 + 2) = false := by decide

/-! Witnesses: the sequential layer. -/

/-- The sequential machine on a word, on a record with an immediate no word has, on an `INVALID` record and on
a reserved word. -/
def seqProgram : CoreState (cfg .forwarding) :=
  CoreState.resetWith _
    [.word 0x1C200005, .record ⟨.movc, 1, 0, 0, 100000⟩, .record ⟨.invalid, 0, 0, 0, 0⟩, .word 0xFC000000]

theorem witness_StepRunsDecodedInstruction :
    (seqProgram.bootProblem = none ∧ seqProgram.stopped = false ∧
        seqProgram.entryAt seqProgram.pc = some (.word 0x1C200005) ∧ decode 16 0x1C200005 = .ok (.movc 1 5)) ∧
      let s := { seqProgram with pc := 4004 }
      s.bootProblem = none ∧ s.stopped = false ∧
        s.entryAt s.pc = some (.record ⟨.movc, 1, 0, 0, 100000⟩) ∧
        Record.instr? (⟨.movc, 1, 0, 0, 100000⟩ : Record 32) = some (.movc 1 100000) := by decide

theorem witness_PlacedInstructionRuns :
    State.reset.config.wf = true ∧
      State.reset.config.codeBase + 4 * max 1 State.reset.core.imem.length ≤ 2 ^ State.reset.config.xlen ∧
      State.reset.config.immBits = 16 ∧ decode 16 (BitVec.ofNat 32 (0x30000000 % 2 ^ 32)) = .ok .halt ∧
      decodeTableWord 32 0x30000000 = some .halt := by decide

theorem witness_InvalidEntryFaults :
    let s := { seqProgram with pc := 4008 }
    let u := { seqProgram with pc := 4012 }
    (s.bootProblem = none ∧ s.stopped = false ∧ s.entryAt s.pc = some (.record ⟨.invalid, 0, 0, 0, 0⟩) ∧
        (Entry.toRecord 16 (.record ⟨.invalid, 0, 0, 0, 0⟩ : Entry 32)).kind = .invalid) ∧
      u.entryAt u.pc = some (.word 0xFC000000) ∧
        (Entry.toRecord 16 (.word 0xFC000000 : Entry 32)).kind = .invalid := by
  decide

theorem witness_TimingInvisible :
    let s := bench [(1, 1)] flagP []
    let u := { s with cycles := 17, stall := true, btb := s.btb.set 0 ⟨true, 4000, true, true, 4008⟩ }
    u.x = s.x ∧ u.pc = s.pc ∧ u.flags = s.flags ∧ u.dmem = s.dmem ∧ u.halted = s.halted ∧ u.fault = s.fault ∧
      u ≠ s ∧ ((next? (exec (.bp 8) (s.onLayer .pipeline))).bind (coreOf Config.standard)).isSome = true := by decide

/-! Witnesses: stops, reset, the driver. -/

theorem witness_StoppedMachineStays :
    ({ seqProgram with halted := true }.bootProblem = none ∧ { seqProgram with halted := true }.halted = true) ∧
      { seqProgram with fault := ⟨.memoryFault, 4000, 4096⟩ }.bootProblem = none ∧
        { seqProgram with fault := ⟨.memoryFault, 4000, 4096⟩ }.fault.kind ≠ .none := by decide

theorem witness_EmptyProgramRefused : State.reset.core.imem = [] := rfl

theorem witness_FirstTickFetchesEntryZero :
    (CoreState.resetWith { Config.standard with codeBase := 0xFFFFFFFC } [.word 0x30000000]).bootProblem = none := by
  decide

theorem witness_RunIsResumable : (3 : Config.standard.Counter).toNat ≤ (9 : Config.standard.Counter).toNat := by decide

theorem witness_StepKeepsMemoryFlagsProgram :
    let s := { inMemoryStage { latchOf .store 9 0 0 with memAddr := 4095 } with flags := flagN }
    (next? (step (s.onLayer .pipeline))).isSome = true ∧ s.memoryOk = true ∧
      (¬(s.flags.z = true ∧ s.flags.p = true) ∧ ¬(s.flags.z = true ∧ s.flags.n = true) ∧
        ¬(s.flags.p = true ∧ s.flags.n = true)) ∧
      s.flags.z = false ∧ s.flags.p = false ∧ s.flags.n = true := by decide

/-! Witnesses: the branch-target buffer. -/

theorem witness_HistoryRules :
    isCondBranch .bnz = true ∧ isCondBranch .bnn = true ∧ (false, true) ≠ (false, false) ∧
      (3 : Slot) ≠ 0 := by decide

/-- A table with the first `n` slots valid, for branches at 4000, 4004, and so on. -/
def tableOf (n : Nat) (s : CoreState Config.standard) : CoreState Config.standard :=
  { s with
    btb := Vector.ofFn fun i : Slot =>
      ⟨decide (i.val < n), BitVec.ofNat 32 (4000 + 4 * i.val), false, false, 4008⟩ }

theorem witness_AllocationTakesFirstFreeSlot :
    let s := tableOf 2 resetCore
    let f := tableOf 4 resetCore
    (s.btb[(2 : Slot).val].valid = false ∧ ∀ j : Slot, j < 2 → s.btb[j.val].valid = true) ∧
      ∀ j : Slot, f.btb[j.val].valid = true := by decide

/-- A branch in Execute: its latch, with the fetch path taken. -/
def branchLatch (k : Kind) (imm : Word) (predicted : Bool) : Latch 32 :=
  { latchOf k 0 0 imm with predTaken := predicted }

theorem witness_BranchResolution :
    let z := (bench [] flagZ []).flags
    let p := (bench [] flagP []).flags
    let n := (bench [] flagN []).flags
    ((isCondBranch (branchLatch .bz 6 false).kind = true ∧ CondHolds (branchLatch .bz 6 false).kind z) ∧
        aligned ((branchLatch .bz 6 false).pc + (branchLatch .bz 6 false).imm) = false) ∧
      ((isCondBranch (branchLatch .bp 8 true).kind = true ∧ CondHolds (branchLatch .bp 8 true).kind p) ∧
        aligned ((branchLatch .bp 8 true).pc + (branchLatch .bp 8 true).imm) = true ∧
        (branchLatch .bp 8 true).predTaken = true) ∧
      ((isCondBranch (branchLatch .bnp (-8) false).kind = true ∧ CondHolds (branchLatch .bnp (-8) false).kind n) ∧
        aligned ((branchLatch .bnp (-8) false).pc + (branchLatch .bnp (-8) false).imm) = true ∧
        (branchLatch .bnp (-8) false).predTaken = false) ∧
      ((isCondBranch (branchLatch .bnz 8 true).kind = true ∧ ¬CondHolds (branchLatch .bnz 8 true).kind z) ∧
        (branchLatch .bnz 8 true).predTaken = true) ∧
      (isCondBranch (branchLatch .bnn 8 false).kind = true ∧ ¬CondHolds (branchLatch .bnn 8 false).kind n) ∧
        (branchLatch .bnn 8 false).predTaken = false := by
  unfold CondHolds
  intro z p n
  and_intros <;> decide

/-- A branch two ticks in: it missed, its entry was allocated in Decode, it is in Execute. -/
def afterBranch : CoreState (cfg .forwarding) := ticks 2 (boot .forwarding [0x2C000008, 0x1C200001, 0x30000000])

theorem witness_TickKeepsBtbInv : afterBranch.BtbInv ∧ afterBranch.btb[(0 : Slot).val].valid = true := by
  refine ⟨⟨?_, ?_, ?_, ?_, ?_⟩, by decide⟩
  · unfold CoreState.tagsUnique; decide
  · unfold CoreState.filledFromZero; decide
  · decide
  · unfold CoreState.ownsSlot; decide
  · unfold CoreState.ownsSlot; decide

/-! Witnesses: the hazard unit. -/

/-- P1 under `STALL_ONLY` after three ticks: `MOVC` has issued, the `ADD` waits for `R1`. -/
def stalled : CoreState (cfg .stallOnly) := ticks 3 (p1 .stallOnly)

theorem stalled_scoreboard : stalled.ScoreboardInv := by
  change ∀ r : Reg, stalled.writersInFlight r ≤ 1 ∧ (stalled.busyBit r = true ↔ stalled.writersInFlight r = 1)
  decide +kernel

theorem witness_ScoreboardInvariant :
    stalled.ScoreboardInv ∧ (next? (step (stalled.onLayer .pipeline))).isSome = true :=
  ⟨stalled_scoreboard, by decide +kernel⟩

theorem witness_BusyClearedInWritebackOnly :
    let s := ticks 1 stalled
    s.busyBit 1 = true ∧ s.lWB.valid = true ∧ (1 : Reg) ∈ dests s.lWB.toRecord := by decide +kernel

theorem witness_OnlyWritebackWritesRegisters :
    let s := ticks 1 stalled
    s.stopped = false ∧ s.lWB.valid = true ∧ writesRd s.lWB.kind = true ∧ s.lWB.rd = 1 := by decide +kernel

theorem witness_OnlyWritebackWritesRegisters_base :
    let s := { boot .forwarding [0x64000000] with lWB := { latchOf .storep 0 0 0 with rs2 := 31, baseNew := 104 } }
    s.stopped = false ∧ s.lWB.valid = true ∧ base? s.lWB.toRecord = some 31 := by decide

/-- P1 where its second instruction is in Decode and Execute of the tick is done: the `ADD` can take its operands. -/
def atDecode : CoreState (cfg .forwarding) := exStage (memStage (wbStage (ticks 2 (p1 .forwarding))))

theorem witness_OperandIsProgramOrderValue :
    atDecode.ScoreboardInv ∧ atDecode.lEX.valid = false ∧ atDecode.drained.fault.kind = .none ∧
      atDecode.mustStall atDecode.lD = false ∧ (1 : Reg) ∈ sources atDecode.lD.toRecord ∧
      atDecode.lMEM.produces 1 = true := by
  refine ⟨?_, by decide +kernel⟩
  change ∀ r : Reg, atDecode.busyBit r = false
  decide +kernel

/-- The load and its user of 95_test_vectors.md section 3.6, `FORWARDING`, two ticks in. -/
def loadUse : CoreState (cfg .forwarding) := ticks 2 (boot .forwarding [0x20810000, 0x00A42000, 0x30000000])

theorem witness_StallsAreBounded :
    ((cfg .forwarding).strategy = .forwarding ∧ (tick loadUse).stall = true ∧
        (tick (tick loadUse)).stopped = false) ∧
      let s := ticks 2 (p1 .stallOnly)
      (cfg .stallOnly).strategy = .stallOnly ∧ (tick s).stall = true ∧ (tick (tick s)).stall = true ∧
        (tick (tick (tick s))).stopped = false := by decide +kernel

theorem witness_StallsAreBounded_scoreboard : (ticks 2 (p1 .stallOnly)).ScoreboardInv := by
  change ∀ r : Reg, (ticks 2 (p1 .stallOnly)).writersInFlight r ≤ 1 ∧
    ((ticks 2 (p1 .stallOnly)).busyBit r = true ↔ (ticks 2 (p1 .stallOnly)).writersInFlight r = 1)
  decide +kernel

theorem witness_StallHoldsDecode :
    loadUse.stopped = false ∧ (tick loadUse).stopped = false ∧ (tick loadUse).stall = true := by decide +kernel

/-! Witnesses: the cycle procedure. -/

theorem witness_TickCounts :
    (stalled.stopped = false ∧ stalled.lWB.valid = false) ∧
      (ticks 1 stalled).stopped = false ∧ (ticks 1 stalled).lWB.valid = true ∧
      { stalled with cycles := -1 }.stopped = false := by decide +kernel

theorem witness_JumpTickRedirects :
    let s := ticks 2 (preset [(1, 4004)] (boot .stallOnly [0x5C010008, 0x1C400001, 0x1C600001, 0x30000000]))
    s.stopped = false ∧ (wbStage s).halted = false ∧ (memStage (wbStage s)).fault.kind = .none ∧
      s.lEX.valid = true ∧ s.lEX.kind = .jump ∧ aligned (s.lEX.rs1Value + s.lEX.imm) = true := by decide +kernel

/-- The core two ticks in, its first instruction in Execute, with `Z` set. -/
def inExecute (w : Word) : CoreState (cfg .forwarding) := ticks 2 { boot .forwarding [w] with flags := flagZ }

/-- Each fault, and the misaligned target of a taken branch, of `JUMP` and of `JALR`. -/
theorem witness_FaultCauses :
    ((inExecute 0xFC000000).stopped = false ∧ (tick (inExecute 0xFC000000)).fault.kind = .invalidOpcode) ∧
      ((inExecute 0x0C611000).stopped = false ∧ (tick (inExecute 0x0C611000)).fault.kind = .divisionByZero) ∧
      ((ticks 1 (inExecute 0x2081FFFF)).stopped = false ∧
        (tick (ticks 1 (inExecute 0x2081FFFF))).fault.kind = .memoryFault) ∧
      ((inExecute 0x28000006).stopped = false ∧
        (tick (inExecute 0x28000006)).fault = ⟨.misalignedTarget, 4000, 4006⟩) ∧
      ((inExecute 0x5C010001).stopped = false ∧ (tick (inExecute 0x5C010001)).fault.kind = .misalignedTarget) ∧
      (inExecute 0x60210003).stopped = false ∧ (tick (inExecute 0x60210003)).fault = ⟨.misalignedTarget, 4000, 3⟩ := by
  decide +kernel

/-- A load outside the memory in Memory and a division by zero behind it in Execute (rule R228). -/
def twoFaults : CoreState (cfg .forwarding) := ticks 3 (boot .forwarding [0x2081FFFF, 0x0C611000, 0x30000000])

theorem witness_OlderMemoryFaultWins :
    twoFaults.stopped = false ∧ (wbStage twoFaults).halted = false ∧ twoFaults.lMEM.valid = true ∧
      isLoad twoFaults.lMEM.kind = true ∧ (cfg .forwarding).dmemSize ≤ twoFaults.lMEM.memAddr.toNat ∧
      twoFaults.lEX.valid = true ∧ twoFaults.lEX.kind = .div := by decide +kernel

theorem witness_UnfetchableFetchesNothing :
    resetCore.entryAt resetCore.pc = none ∧
      { boot .stallOnly [0x64000000] with pc := 4002 }.entryAt 4002 = none ∧
      { boot .stallOnly [0x64000000] with pc := 4004 }.entryAt 4004 = none ∧
      (boot .stallOnly [0x64000000]).entryAt 4000 = some (.word 0x64000000) := by decide

/-- `NOP` alone, run off the end and drained. -/
def drainedCore : CoreState (cfg .stallOnly) := ticks 5 (boot .stallOnly [0x64000000])

theorem witness_DrainedPipelineIdles :
    drainedCore.stopped = false ∧ drainedCore.lD.valid = false ∧ drainedCore.lEX.valid = false ∧
      drainedCore.lMEM.valid = false ∧ drainedCore.lWB.valid = false ∧ drainedCore.redirectPending = false ∧
      drainedCore.entryAt drainedCore.pc = none ∧ drainedCore.retired = 1 := by decide +kernel

theorem witness_InvalidFieldsNeverRead :
    let s := resetCore
    let t := { s with lWB := { Latch.empty with result := 7 }, btb := s.btb.set 3 ⟨false, 4000, true, true, 8⟩ }
    s.readsAlike t ∧ s ≠ t := by
  refine ⟨?_, by decide⟩
  unfold CoreState.readsAlike Latch.readsAlike BtbEntry.readsAlike
  decide

/-! Witnesses: the pipeline invariant in states of runs. -/

/-- P1 with `MOVC` in Memory, the bubble in Execute, `ADD` in Decode. -/
theorem stalled_pipelineInv : stalled.PipelineInv where
  storeD := by decide +kernel
  storeEX := by decide +kernel
  predD := by decide +kernel
  predEX := by decide +kernel
  pathD := by decide +kernel
  pathEX := by decide +kernel
  target := fun i h => absurd h ((by decide +kernel : ∀ i : Slot, ¬stalled.btb[i.val].valid = true) i)
  noBubble := by decide +kernel
  haltEX := by unfold CoreState.fetchStopped; decide +kernel
  haltMEM := by unfold CoreState.fetchStopped; decide +kernel
  haltWB := by unfold CoreState.fetchStopped; decide +kernel
  haltDone := by unfold CoreState.fetchStopped; decide +kernel
  fetchOff := by decide +kernel
  operands := by decide +kernel
  scoreboard := stalled_scoreboard

/-- A branch in Execute, its entry in the table, the instruction after it in Decode. -/
theorem afterBranch_pipelineInv : afterBranch.PipelineInv where
  storeD := by decide +kernel
  storeEX := by decide +kernel
  predD := by decide +kernel
  predEX := by decide +kernel
  pathD := by decide +kernel
  pathEX := by decide +kernel
  target := by
    intro i h
    refine ⟨⟨.bnz, 0, 0, 0, 8⟩, ?_⟩
    have := (by decide +kernel : ∀ i : Slot, afterBranch.btb[i.val].valid = true →
      afterBranch.recordAt afterBranch.btb[i.val].tag = some ⟨.bnz, 0, 0, 0, 8⟩ ∧ isCondBranch .bnz = true ∧
        afterBranch.btb[i.val].target = branchTarget afterBranch.btb[i.val].tag 8) i h
    exact this
  noBubble := by decide +kernel
  haltEX := by unfold CoreState.fetchStopped; decide +kernel
  haltMEM := by unfold CoreState.fetchStopped; decide +kernel
  haltWB := by unfold CoreState.fetchStopped; decide +kernel
  haltDone := by unfold CoreState.fetchStopped; decide +kernel
  fetchOff := by decide +kernel
  operands := by decide +kernel
  scoreboard := by
    change ∀ r : Reg, afterBranch.busyBit r = false
    decide +kernel

/-- `HALT` in Writeback. -/
def haltAtWriteback : CoreState (cfg .forwarding) := ticks 4 (boot .forwarding [0x30000000])

theorem haltAtWriteback_pipelineInv : haltAtWriteback.PipelineInv where
  storeD := by decide +kernel
  storeEX := by decide +kernel
  predD := by decide +kernel
  predEX := by decide +kernel
  pathD := by decide +kernel
  pathEX := by decide +kernel
  target := fun i h => absurd h ((by decide +kernel : ∀ i : Slot, ¬haltAtWriteback.btb[i.val].valid = true) i)
  noBubble := by decide +kernel
  haltEX := by unfold CoreState.fetchStopped; decide +kernel
  haltMEM := by unfold CoreState.fetchStopped; decide +kernel
  haltWB := by unfold CoreState.fetchStopped; decide +kernel
  haltDone := by unfold CoreState.fetchStopped; decide +kernel
  fetchOff := by decide +kernel
  operands := by decide +kernel
  scoreboard := by
    change ∀ r : Reg, haltAtWriteback.busyBit r = false
    decide +kernel

theorem witness_TickKeepsPipelineInv : afterBranch.PipelineInv ∧ stalled.PipelineInv :=
  ⟨afterBranch_pipelineInv, stalled_pipelineInv⟩

/-- A tick with an instruction in Execute, and one without. -/
theorem witness_TickRefinesSequentialStep :
    (afterBranch.bootProblem = none ∧ afterBranch.PipelineInv ∧ afterBranch.stopped = false ∧
        afterBranch.lEX.valid = true ∧ afterBranch.drained.fault.kind = .none) ∧
      stalled.bootProblem = none ∧ stalled.PipelineInv ∧ stalled.stopped = false ∧ stalled.lEX.valid = false :=
  ⟨⟨by decide +kernel, afterBranch_pipelineInv, by decide +kernel⟩, by decide +kernel, stalled_pipelineInv,
    by decide +kernel⟩

theorem witness_ExecuteWithinThreeTicks :
    stalled.PipelineInv ∧ stalled.stopped = false ∧ stalled.drained.fault.kind = .none ∧
      stalled.drained.halted = false ∧ (stalled.entryAt stalled.nextToExecute).isSome = true :=
  ⟨stalled_pipelineInv, by decide +kernel⟩

theorem witness_HaltedStateIsClean :
    haltAtWriteback.PipelineInv ∧ haltAtWriteback.stopped = false ∧ (tick haltAtWriteback).halted = true :=
  ⟨haltAtWriteback_pipelineInv, by decide +kernel⟩

/-! Witnesses: whole runs. -/

/-- Clause (a): `HALT` alone. Clause (b): a reserved word alone. -/
theorem witness_SequentialEquivalence :
    let h := boot .forwarding [0x30000000]
    let r := boot .stallOnly [0xFC000000]
    (h.bootProblem = none ∧ stepN 0 (h.onLayer .sequential) = some (h.onLayer .sequential) ∧ h.stopped = false ∧
        ((next? (step (h.onLayer .sequential))).bind (coreOf (cfg .forwarding))).map CoreState.halted = some true) ∧
      r.bootProblem = none ∧ stepN 0 (r.onLayer .sequential) = some (r.onLayer .sequential) ∧ r.stopped = false ∧
        ((next? (step (r.onLayer .sequential))).bind (coreOf (cfg .stallOnly))).map (fun v => v.fault.kind) =
          some .invalidOpcode := by decide +kernel

/-- `NOP` alone, after its step of the sequential machine. -/
def pastNop : CoreState (cfg .stallOnly) := { boot .stallOnly [0x64000000] with pc := 4004, retired := 1 }

/-- Clause (c): `NOP` alone runs off the end of the store and never stops. -/
theorem witness_SequentialEquivalence_neverStops :
    (boot .stallOnly [0x64000000]).bootProblem = none ∧
      ∀ (n : Nat) (u : CoreState (cfg .stallOnly)),
        stepN n ((boot .stallOnly [0x64000000]).onLayer .sequential) = some (u.onLayer .sequential) →
          u.stopped = false := by
  refine ⟨by decide, fun n u h => ?_⟩
  have idle : ∀ n : Nat, stepN n (pastNop.onLayer .sequential) = some (pastNop.onLayer .sequential) := by
    intro n
    induction n with
    | zero => rfl
    | succ n ih => exact ih
  cases n with
  | zero => cases h; decide
  | succ n =>
    have h' : stepN n (pastNop.onLayer .sequential) = some (u.onLayer .sequential) := h
    rw [idle n] at h'
    cases h'
    decide

/-- A faulting run under one strategy and a halting one under the other. -/
theorem witness_StrategiesAgree :
    (boot .stallOnly [0xFC000000]).bootProblem = none ∧
      (∃ t : CoreState (cfg .stallOnly),
        stepN 3 ((boot .stallOnly [0xFC000000]).onLayer .pipeline) = some (t.onLayer .pipeline) ∧ t.stopped = true) ∧
      ∃ t : CoreState (cfg .forwarding),
        stepN 5 ((boot .forwarding [0x30000000]).onLayer .pipeline) = some (t.onLayer .pipeline) ∧ t.stopped = true :=
  ⟨by decide, ⟨ticks 3 (boot .stallOnly [0xFC000000]), rfl, by decide +kernel⟩,
    ⟨ticks 5 (boot .forwarding [0x30000000]), rfl, by decide +kernel⟩⟩

end Sys2Proof.Tests
end

section
/-! SUPPORT. What one step does to the data memory, the flags and the program, on either layer (spec 00_scope.md rules
R4, R8; 10_state.md rule R24; 20_memory.md rules R50, R53, R56). The memory and the flags change in one way each: one
cell of the data memory is written, and the flags are set from a sign. -/

namespace Sys2Proof.Machine

section

variable {c : Config} {s t : CoreState c} {l : Layer}

/-! Flags that are set from a sign. -/

theorem Flags.exactlyOne_ofResult {n : Nat} (v : BitVec n) : (Flags.ofResult v).exactlyOne := by
  simp only [Flags.exactlyOne, Flags.ofResult, decide_eq_true_eq, decide_eq_false_iff_not]
  omega

theorem Flags.exactlyOne_ofCompare {n : Nat} (a b : BitVec n) : (Flags.ofCompare a b).exactlyOne := by
  simp only [Flags.exactlyOne, Flags.ofCompare, decide_eq_true_eq, decide_eq_false_iff_not]
  omega

theorem Flags.exactlyOne.exclusive {f : Flags} (h : f.exactlyOne) : f.exclusive := by
  rcases h with ⟨hz, hp, hn⟩ | ⟨hz, hp, hn⟩ | ⟨hz, hp, hn⟩ <;> simp [Flags.exclusive, hz, hp, hn]

/-! The invariant of the data memory under a write inside it. -/

theorem CoreState.memoryOk_congr (h : t.dmem = s.dmem) : t.memoryOk = s.memoryOk := by
  simp only [CoreState.memoryOk, h]

theorem CoreState.memoryOk_of_writeCell {a : Nat} {v : c.Value} (ha : a < c.dmemSize)
    (h : t.dmem = writeCell s.dmem a v) (hs : s.memoryOk = true) : t.memoryOk = true := by
  simp only [CoreState.memoryOk, Bool.and_eq_true] at hs ⊢
  obtain ⟨canonical, inside⟩ := hs
  rw [h]
  exact ⟨memoryWf_writeCell _ a v canonical,
    writeCell_all (fun i => decide (i < c.dmemSize)) _ a v inside (decide_eq_true ha)⟩

/-! What a step can do. -/

/-- `t` has the program of `s`, its data memory with at most one cell inside it written, and its flags or flags of
which exactly one is set. -/
structure DataStep (s t : CoreState c) : Prop where
  dmem : t.dmem = s.dmem ∨ ∃ a v, a < c.dmemSize ∧ t.dmem = writeCell s.dmem a v
  flags : t.flags = s.flags ∨ t.flags.exactlyOne
  imem : t.imem = s.imem

theorem DataStep.of_kept (hd : t.dmem = s.dmem) (hf : t.flags = s.flags) (hi : t.imem = s.imem) : DataStep s t :=
  ⟨.inl hd, .inl hf, hi⟩

theorem DataStep.refl (s : CoreState c) : DataStep s s := .of_kept rfl rfl rfl

theorem DataStep.memoryOk (h : DataStep s t) (hs : s.memoryOk = true) : t.memoryOk = true := by
  rcases h.dmem with hd | ⟨a, v, ha, hd⟩
  · rw [CoreState.memoryOk_congr hd, hs]
  · exact CoreState.memoryOk_of_writeCell ha hd hs

theorem DataStep.exactlyOne (h : DataStep s t) (hs : s.flags.exactlyOne) : t.flags.exactlyOne :=
  h.flags.elim (fun hf => hf ▸ hs) id

theorem DataStep.exclusive (h : DataStep s t) (hs : s.flags.exclusive) : t.flags.exclusive :=
  h.flags.elim (fun hf => hf ▸ hs) Flags.exactlyOne.exclusive

/-! The sequential machine. -/

theorem CoreState.finishResult_dataStep (s : CoreState c) (rd : Reg) (r : c.Value) :
    DataStep s (s.finishResult rd r) := .of_kept rfl rfl rfl

theorem CoreState.finishFlagged_dataStep (s : CoreState c) (rd : Reg) (r : c.Value) :
    DataStep s (s.finishFlagged rd r) := ⟨.inl rfl, .inr (Flags.exactlyOne_ofResult r), rfl⟩

theorem CoreState.finishCompare_dataStep (s : CoreState c) (a b : c.Value) :
    DataStep s (s.finishCompare a b) := ⟨.inl rfl, .inr (Flags.exactlyOne_ofCompare a b), rfl⟩

theorem CoreState.raise_dataStep (s : CoreState c) (k : FaultKind) (p i : c.Value) :
    DataStep s (s.raise k p i) := .of_kept rfl rfl rfl

theorem CoreState.transfer_dataStep (s : CoreState c) (a : c.Value) : DataStep s (s.transfer a) := by
  unfold CoreState.transfer
  split
  · exact .of_kept rfl rfl rfl
  · exact s.raise_dataStep ..

theorem CoreState.branch_dataStep (s : CoreState c) (taken : Bool) (imm : c.Value) :
    DataStep s (s.branch taken imm) := by
  unfold CoreState.branch
  split
  · exact s.transfer_dataStep _
  · exact .of_kept rfl rfl rfl

/-- A write that answers is a step that writes its one cell. -/
theorem CoreState.memWrite_dataStep {a v : c.Value} (h : s.memWrite a v = some t) : DataStep s t := by
  obtain ⟨ha, rfl⟩ := CoreState.memWrite_eq_some.mp h
  exact ⟨.inr ⟨a.toNat, v, ha, rfl⟩, .inl rfl, rfl⟩

/-- What follows a step and touches none of the three keeps it a step. -/
theorem DataStep.trans_kept {u : CoreState c} (h : DataStep s t) (hd : u.dmem = t.dmem) (hf : u.flags = t.flags)
    (hi : u.imem = t.imem) : DataStep s u := by
  obtain ⟨dmem, flags, imem⟩ := h
  exact ⟨hd ▸ dmem, hf ▸ flags, hi.trans imem⟩

/-- Every instruction answers a next state on the same layer, and is such a step. -/
theorem exec_dataStep (i : Instr) (s : CoreState c) (l : Layer) :
    ∃ t : CoreState c, exec i (s.onLayer l) = .next (t.onLayer l) ∧ DataStep s t := by
  cases i with
  | add | sub | mul | addl | subl => exact ⟨_, rfl, s.finishFlagged_dataStep ..⟩
  | and | or | xor | movc => exact ⟨_, rfl, s.finishResult_dataStep ..⟩
  | cmp | cml => exact ⟨_, rfl, s.finishCompare_dataStep ..⟩
  | bz | bnz | bp | bnp | bn | bnn => exact ⟨_, rfl, s.branch_dataStep ..⟩
  | jump => exact ⟨_, rfl, s.transfer_dataStep _⟩
  | nop | halt => exact ⟨_, rfl, .of_kept rfl rfl rfl⟩
  | div =>
    refine ⟨_, exec_div .., ?_⟩
    split
    · exact s.raise_dataStep ..
    · exact s.finishFlagged_dataStep ..
  | jalr =>
    refine ⟨_, exec_jalr .., ?_⟩
    split
    · exact .of_kept rfl rfl rfl
    · exact s.raise_dataStep ..
  | load =>
    refine ⟨_, exec_load .., ?_⟩
    split
    · exact s.raise_dataStep ..
    · exact .of_kept rfl rfl rfl
  | loadp =>
    refine ⟨_, exec_loadp .., ?_⟩
    split
    · exact s.raise_dataStep ..
    · exact .of_kept rfl rfl rfl
  | store =>
    refine ⟨_, exec_store .., ?_⟩
    split
    · exact s.raise_dataStep ..
    next h => exact (CoreState.memWrite_dataStep h).trans_kept rfl rfl rfl
  | storep =>
    refine ⟨_, exec_storep .., ?_⟩
    split
    · exact s.raise_dataStep ..
    next h => exact (CoreState.memWrite_dataStep h).trans_kept rfl rfl rfl

theorem seqStep_dataStep (s : CoreState c) (l : Layer) :
    ∃ t : CoreState c, seqStep (s.onLayer l) = .next (t.onLayer l) ∧ DataStep s t := by
  rcases seqStep_cases s l with ⟨-, e⟩ | ⟨-, -, e⟩ | ⟨_, i, -, -, -, e⟩ | ⟨_, -, -, -, e⟩
  · exact ⟨s, e, .refl s⟩
  · exact ⟨s, e, .refl s⟩
  · exact e ▸ exec_dataStep i s l
  · exact ⟨_, e, s.raise_dataStep ..⟩

/-! The pipeline: Memory alone writes the data memory, Execute alone the flags. -/

theorem memStage_dmem (s : CoreState c) :
    (memStage s).dmem = s.dmem ∨ ∃ a v, a < c.dmemSize ∧ (memStage s).dmem = writeCell s.dmem a v := by
  rcases memStage_cases s with ⟨-, e⟩ | ⟨_, -, -, -, e⟩ | ⟨-, -, -, inside, e⟩ | ⟨-, -, -, e⟩ | ⟨-, -, -, e⟩
  · exact .inl (by simp [e])
  · exact .inl (by simp [e])
  · exact .inr ⟨_, s.lMEM.rs1Value, inside, by simp [e]⟩
  · exact .inl (by simp [e])
  · exact .inl (by simp [e])

/-- The state in the answer of Execute's part of one instruction, passed or raised. -/
def ExOut.core : ExOut c → CoreState c
  | .pass _ t => t
  | .raise t => t

theorem exBranch_flags (taken : Bool) (l : Latch c.xlen) (s : CoreState c) :
    (exBranch taken l s).core.flags = s.flags := by
  rcases exBranch_cases taken l s with ⟨-, -, e⟩ | ⟨-, -, -, e⟩ | ⟨-, -, e⟩ | ⟨-, -, e⟩ <;> rw [e] <;> rfl

/-- The kinds that set the flags set them from a sign; the others leave them (rule R27). -/
theorem exKind_flags (l : Latch c.xlen) (s : CoreState c) :
    (exKind l s).core.flags = s.flags ∨ (exKind l s).core.flags.exactlyOne := by
  unfold exKind
  cases l.kind with
  | add | sub | mul | addl | subl => exact .inr (Flags.exactlyOne_ofResult _)
  | cmp | cml => exact .inr (Flags.exactlyOne_ofCompare _ _)
  | div =>
    simp only [exDiv]
    split
    · exact .inl rfl
    · exact .inr (Flags.exactlyOne_ofResult _)
  | bz | bnz | bp | bnp | bn | bnn => exact .inl (exBranch_flags ..)
  | jump => simp only [exJump]; split <;> exact .inl rfl
  | jalr => simp only [exJalr]; split <;> exact .inl rfl
  | and | or | xor | movc | load | loadp | store | storep | nop | halt | invalid => exact .inl rfl

theorem exStage_flags (s : CoreState c) : (exStage s).flags = s.flags ∨ (exStage s).flags.exactlyOne := by
  have kind := exKind_flags s.lEX s
  rcases exStage_cases s with ⟨-, e⟩ | ⟨t, -, raised, -, e⟩ | ⟨_, t, -, passed, -, e⟩
  · exact .inl (congrArg CoreState.flags e)
  · rw [raised] at kind
    exact e ▸ kind
  · rw [passed] at kind
    exact e ▸ kind

/-- A tick's data memory is what Memory left, its flags what Execute left, each where the tick came that far. -/
theorem tick_dataStep (s : CoreState c) : DataStep s (tick s) := by
  have dmem := memStage_dmem (wbStage s)
  have flags := exStage_flags (memStage (wbStage s))
  simp only [wbStage_dmem, memStage_flags, wbStage_flags] at dmem flags
  rcases tick_cases s with ⟨-, e⟩ | ⟨-, -, e⟩ | ⟨-, -, -, e⟩ | ⟨-, -, -, -, e⟩ | ⟨-, -, -, -, e⟩
  · rw [e]
    exact .refl s
  · exact .of_kept (by simp [e]) (by simp [e]) (tick_imem s)
  · exact ⟨by simpa [e] using dmem, .inl (by simp [e]), tick_imem s⟩
  · exact ⟨by simpa [e] using dmem, by simpa [e] using flags, tick_imem s⟩
  · exact ⟨by simpa [e] using dmem, by simpa [e] using flags, tick_imem s⟩

/-! One step of the machine. -/

/-- A core that may not be started is refused by the name of what keeps it, on either layer. -/
theorem step_refused {s : State} {r : Refusal} (h : s.core.bootProblem = some r) : step s = .refused r := by
  simp only [step, h]

theorem CoreState.bootProblem_of_empty (h : s.imem = []) : s.bootProblem = some .noProgram := by
  simp [CoreState.bootProblem, h]

/-- A step that answers a next state answers it with the same configuration on the same layer. -/
theorem step_dataStep {u : State} (h : step (s.onLayer l) = .next u) :
    ∃ t : CoreState c, u = t.onLayer l ∧ DataStep s t := by
  cases boot : s.bootProblem with
  | some r =>
    rw [step_refused (s := s.onLayer l) boot] at h
    cases h
  | none =>
    cases l with
    | pipeline =>
      rw [step_pipeline s boot] at h
      cases h
      exact ⟨tick s, rfl, tick_dataStep s⟩
    | sequential =>
      obtain ⟨t, e, data⟩ := seqStep_dataStep s .sequential
      rw [step_sequential s boot, e] at h
      cases h
      exact ⟨t, rfl, data⟩

end

/-- Settles O34: every step is a `DataStep`, and a `DataStep` keeps each of the invariants. -/
theorem stepKeepsMemoryFlagsProgram : Obligations.StepKeepsMemoryFlagsProgram := by
  intro c l s t h
  obtain ⟨u, ht, data⟩ := step_dataStep h
  exact ⟨u, ht, data.memoryOk, data.exclusive, data.exactlyOne, data.imem⟩

/-- Settles O30: the empty program is the first thing that keeps a core from being started. -/
theorem emptyProgramRefused : Obligations.EmptyProgramRefused :=
  fun _ h => step_refused (CoreState.bootProblem_of_empty h)

end Sys2Proof.Machine
end

section
/-! SUPPORT. What an invariant of the tick has to meet, stage by stage, and what the stages do to the latches (spec
43_pipeline_stages.md rules R141 to R147). A stage that is evaluated finds the latch it fills empty: `KeptByStages`
says once what each stage may assume, and `KeptByStages.tick` packages the case split of the tick. -/

namespace Sys2Proof.Machine

section

variable {c : Config} (s : CoreState c)

/-! Writeback. -/

theorem wbStage_lWB : (wbStage s).lWB = { s.lWB with valid := false } := by
  by_cases valid : s.lWB.valid = true
  · simp [wbStage, valid]
  · rw [Bool.not_eq_true] at valid
    rw [wbStage_eq_self valid, ← valid]

/-- `HALT` in `L_WB` is what stops the machine. -/
theorem wbStage_halted : (wbStage s).halted = (s.halted || s.lWB.holdsHalt) := by
  by_cases valid : s.lWB.valid = true <;> simp [wbStage, Latch.holdsHalt, valid]

theorem wbStage_retired : (wbStage s).retired = if s.lWB.valid = true then s.retired + 1 else s.retired := by
  by_cases valid : s.lWB.valid = true <;> simp [wbStage, valid]

theorem wbStage_wbStage : wbStage (wbStage s) = wbStage s := wbStage_eq_self wbStage_lWB_valid

/-! Memory. -/

/-- Memory leaves both latches and may raise, or it passes `L_MEM` on and raises nothing. -/
theorem memStage_latches :
    ((memStage s).lMEM = s.lMEM ∧ (memStage s).lWB = s.lWB) ∨
      (s.lMEM.valid = true ∧ (memStage s).fault = s.fault ∧ (memStage s).lMEM.valid = false ∧
        ∃ v, (memStage s).lWB = { s.lMEM with result := v, valid := true }) := by
  rcases memStage_cases s with ⟨-, e⟩ | ⟨v, valid, -, -, e⟩ | ⟨valid, -, -, -, e⟩ | ⟨valid, -, -, e⟩ | ⟨-, -, -, e⟩
  · exact .inl (by simp [e])
  · exact .inr ⟨valid, by simp [e], by simp [e], v, by simp [e]⟩
  · exact .inr ⟨valid, by simp [e], by simp [e], s.lMEM.result, by simp [e]⟩
  · exact .inr ⟨valid, by simp [e], by simp [e], s.lMEM.result, by simp [e]⟩
  · exact .inl (by simp [e])

/-- A fault is recorded after Memory where one was recorded before, or where an access of `L_MEM` fails. -/
theorem memStage_fault_none :
    (memStage s).fault.kind = .none ↔
      s.fault.kind = .none ∧
        ¬(s.lMEM.valid = true ∧ (isLoad s.lMEM.kind = true ∨ isStore s.lMEM.kind = true) ∧
          c.dmemSize ≤ s.lMEM.memAddr.toNat) := by
  rcases memStage_cases s with ⟨valid, e⟩ | ⟨_, -, -, read, e⟩ | ⟨-, -, -, inside, e⟩ | ⟨-, load, store, e⟩ |
    ⟨valid, access, outside, e⟩
  · simp [e, valid]
  · obtain ⟨inside, -⟩ := CoreState.memRead_eq_some.mp read
    simp [e, inside]
  · simp [e, inside]
  · simp [e, load, store]
  · simp [e, valid, access, outside]

/-! Execute. -/

/-- Execute leaves the front of the pipeline and may raise, or it empties `L_EX` and does not raise, and then an
instruction that is still in Decode stands where it stood. -/
theorem exStage_front :
    ((exStage s).lEX = s.lEX ∧ (exStage s).lMEM = s.lMEM ∧ (exStage s).lD = s.lD ∧ (exStage s).lF = s.lF ∧
        (exStage s).pc = s.pc ∧ (exStage s).fetchEnabled = s.fetchEnabled ∧
        (exStage s).redirectPending = s.redirectPending) ∨
      ((exStage s).lEX.valid = false ∧ (exStage s).fault = s.fault ∧
        ((exStage s).lD.valid = true → (exStage s).lD = s.lD ∧ (exStage s).pc = s.pc)) := by
  rcases exStage_cases s with ⟨-, e⟩ | ⟨t, -, -, ⟨k, i, -, rfl | ⟨-, rfl⟩⟩, e⟩ | ⟨l, t, -, -, passed, e⟩
  · exact .inl (by simp [e])
  · exact .inl (by simp [e])
  · exact .inl (by simp [e])
  · refine .inr ⟨by simp [e], by simp [e, passed.fault], ?_⟩
    rcases passed.flow with ⟨pc, lD, -⟩ | ⟨lD, -⟩
    · exact fun _ => by simp [e, pc, lD]
    · simp [e, lD]

theorem exStage_lD (h : (exStage s).lD.valid = true) : (exStage s).lD = s.lD ∧ (exStage s).pc = s.pc := by
  rcases exStage_front s with ⟨-, -, lD, -, pc, -⟩ | ⟨-, -, kept⟩
  · exact ⟨lD, pc⟩
  · exact kept h

theorem exStage_lEX (h : (exStage s).lEX.valid = true) :
    (exStage s).lEX = s.lEX ∧ (exStage s).lD = s.lD ∧ (exStage s).pc = s.pc := by
  rcases exStage_front s with ⟨lEX, -, lD, -, pc, -⟩ | ⟨empty, -⟩
  · exact ⟨lEX, lD, pc⟩
  · simp [h] at empty

/-- Execute trains at most one entry, which keeps its address and its target. -/
theorem exStage_btb (i : Slot) :
    (exStage s).btb[i.val].valid = s.btb[i.val].valid ∧ (exStage s).btb[i.val].tag = s.btb[i.val].tag ∧
      (exStage s).btb[i.val].target = s.btb[i.val].target := by
  have trained (j : Slot) (b : Bool) :=
    And.intro (s.updateHistory_valid j b i) (And.intro (s.updateHistory_tag j b i) (s.updateHistory_target j b i))
  rcases exStage_cases s with ⟨-, e⟩ | ⟨t, -, -, ⟨k, _, -, rfl | ⟨-, rfl⟩⟩, e⟩ | ⟨l, t, -, -, passed, e⟩
  · simp only [e, and_self]
  · simp only [e, CoreState.raise_btb, and_self]
  · simpa only [e, CoreState.raise_btb] using trained _ _
  · rcases passed.btb with kept | ⟨-, taken, updated⟩
    · simp only [e, CoreState.passToMEM_btb, kept, and_self]
    · simpa only [e, CoreState.passToMEM_btb, updated] using trained _ _

/-! Decode. -/

/-- The allocation in Decode changes no field of `L_D` but the slot. -/
theorem CoreState.allocateBranch_lD : ∃ i, s.allocateBranch.lD = { s.lD with btbIdx := i } := by
  unfold CoreState.allocateBranch
  split
  · exact ⟨s.victim, rfl⟩
  · exact ⟨s.lD.btbIdx, rfl⟩

@[simp] theorem CoreState.allocateBranch_lD_toRecord : s.allocateBranch.lD.toRecord = s.lD.toRecord := by
  obtain ⟨i, e⟩ := s.allocateBranch_lD; simp [e]
@[simp] theorem CoreState.allocateBranch_lD_valid : s.allocateBranch.lD.valid = s.lD.valid := by
  obtain ⟨i, e⟩ := s.allocateBranch_lD; simp [e]
@[simp] theorem CoreState.allocateBranch_lD_pc : s.allocateBranch.lD.pc = s.lD.pc := by
  obtain ⟨i, e⟩ := s.allocateBranch_lD; simp [e]
@[simp] theorem CoreState.allocateBranch_lD_predTaken : s.allocateBranch.lD.predTaken = s.lD.predTaken := by
  obtain ⟨i, e⟩ := s.allocateBranch_lD; simp [e]

@[simp] theorem CoreState.issue_lEX :
    s.issue.lEX = { s.captureOperands s.lD with valid := true } := rfl

@[simp] theorem CoreState.issue_lD_valid : s.issue.lD.valid = false := rfl

/-- Issuing a `HALT` disables fetching. -/
theorem CoreState.issue_fetchEnabled :
    s.issue.fetchEnabled = false ↔ s.fetchEnabled = false ∨ s.lD.kind = .halt := by
  change ((s.markBusy s.lD).fetchEnabled && decide (s.lD.kind ≠ .halt)) = false ↔ _
  rw [Bool.and_eq_false_iff, decide_eq_false_iff_not, not_not, CoreState.markBusy_fetchEnabled]

/-- After Decode the instruction is still there exactly when it is held. -/
theorem drfStage_lD_valid : (drfStage s).lD.valid = (drfStage s).stall := by
  rcases drfStage_cases s with ⟨valid, e⟩ | ⟨valid, ⟨-, e⟩ | ⟨-, e⟩⟩ <;> simp [e, valid]

/-! Fetch. -/

@[simp] theorem Latch.fetched_valid (a : c.Value) (r : Record c.xlen) : (Latch.fetched a r).valid = true := rfl
@[simp] theorem Latch.fetched_pc (a : c.Value) (r : Record c.xlen) : (Latch.fetched a r).pc = a := rfl
@[simp] theorem Latch.fetched_btbHit (a : c.Value) (r : Record c.xlen) : (Latch.fetched a r).btbHit = false := rfl
@[simp] theorem Latch.fetched_predTaken (a : c.Value) (r : Record c.xlen) :
    (Latch.fetched a r).predTaken = false := rfl

/-- The instruction that Fetch passes on follows the table where it hits, and is the sequential one where it misses
(rule R203). -/
theorem CoreState.fetchPass_cases (l : Latch c.xlen) :
    (∃ i, s.lookup s.pc = some i ∧
      s.fetchPass l = s.passToD { l with btbHit := true, btbIdx := i, predTaken := s.predictTaken i }
        (if s.predictTaken i then s.btb[i.val].target else nextPc s.pc)) ∨
      (s.lookup s.pc = none ∧ s.fetchPass l = s.passToD l (nextPc s.pc)) := by
  unfold CoreState.fetchPass
  cases s.lookup s.pc with
  | some i => exact .inl ⟨i, rfl, rfl⟩
  | none => exact .inr ⟨rfl, rfl⟩

@[simp] theorem CoreState.fetchPass_lD_pc (l : Latch c.xlen) : (s.fetchPass l).lD.pc = l.pc := by
  rcases s.fetchPass_cases l with ⟨_, -, e⟩ | ⟨-, e⟩ <;> simp [e]
@[simp] theorem CoreState.fetchPass_lD_valid (l : Latch c.xlen) : (s.fetchPass l).lD.valid = l.valid := by
  rcases s.fetchPass_cases l with ⟨_, -, e⟩ | ⟨-, e⟩ <;> simp [e]

/-- Fetch keeps Decode and `pc`, or it passes the record at `pc` on. -/
theorem fetchStage_front :
    ((fetchStage s).lD = s.lD ∧ (fetchStage s).pc = s.pc) ∨
      ∃ e, s.fetchEnabled = true ∧ s.stall = false ∧ s.entryAt s.pc = some e ∧
        fetchStage s = s.fetchPass (Latch.fetched s.pc (e.toRecord c.immBits)) := by
  rcases fetchStage_cases s with ⟨-, h⟩ | ⟨-, -, h⟩ | ⟨e, -, -, -, -, h⟩ | ⟨e, -, enabled, entry, stall, h⟩
  · exact .inl (by simp [h])
  · exact .inl (by simp [h])
  · exact .inl (by simp [h])
  · exact .inr ⟨e, enabled, stall, entry, h⟩

/-! The tick. -/

/-- Every stage of a tick keeps `P`, where the stage is evaluated: the latch that Memory, Execute and Decode fill is
empty, and Fetch runs where Decode is empty unless it stalls. -/
structure KeptByStages (P : CoreState c → Prop) : Prop where
  wb : ∀ s, P s → P (wbStage s)
  mem : ∀ s, s.lWB.valid = false → P s → P (memStage s)
  ex : ∀ s, s.lMEM.valid = false → P s → P (exStage s)
  drf : ∀ s, s.lEX.valid = false → P s → P (drfStage s)
  fetch : ∀ s, s.lD.valid = s.stall → P s → P (fetchStage s)
  count : ∀ s, P s → P s.countCycle

theorem KeptByStages.tick {P : CoreState c → Prop} (kept : KeptByStages P) {s : CoreState c} (h : P s) :
    P (tick s) := by
  have wb := kept.wb s h
  have mem := kept.mem _ wbStage_lWB_valid wb
  rcases tick_cases s with ⟨-, e⟩ | ⟨-, -, e⟩ | ⟨-, -, -, e⟩ | ⟨-, -, memOk, -, e⟩ | ⟨-, -, memOk, exOk, e⟩ <;> rw [e]
  · exact h
  · exact kept.count _ wb
  · exact kept.count _ mem
  · exact kept.count _ (kept.ex _ (memStage_lMEM_valid memOk) mem)
  · have ex := kept.ex _ (memStage_lMEM_valid memOk) mem
    have drf := kept.drf _ (exStage_lEX_valid exOk) ex
    exact kept.count _ (kept.fetch _ (drfStage_lD_valid _) drf)

end

end Sys2Proof.Machine
end

section
/-! SUPPORT. The scoreboard (spec 44_hazard_forwarding.md rules R181 to R183, R191): every stage, and every
instruction of the sequential machine, keeps the invariant of the busy bits. -/

namespace Sys2Proof.Machine

section

variable {c : Config} {s t : CoreState c}

/-! The invariant under each strategy, and the writers in flight as a sum over the three latches. -/

theorem CoreState.scoreboardInv_stallOnly (h : c.strategy = .stallOnly) :
    s.ScoreboardInv ↔
      ∀ r : Reg, s.writersInFlight r ≤ 1 ∧ (s.busyBit r = true ↔ s.writersInFlight r = 1) := by
  simp only [CoreState.ScoreboardInv, h]

theorem CoreState.scoreboardInv_forwarding (h : c.strategy = .forwarding) :
    s.ScoreboardInv ↔ ∀ r : Reg, s.busyBit r = false := by
  simp only [CoreState.ScoreboardInv, h]

theorem CoreState.writersInFlight_eq (s : CoreState c) (r : Reg) :
    s.writersInFlight r = (s.lEX.produces r).toNat + (s.lMEM.produces r).toNat + (s.lWB.produces r).toNat := by
  unfold CoreState.writersInFlight
  cases hEX : s.lEX.produces r <;> cases hMEM : s.lMEM.produces r <;> cases hWB : s.lWB.produces r <;>
    simp [hEX, hMEM, hWB]

theorem CoreState.ScoreboardInv.congr (h : s.ScoreboardInv) (writers : ∀ r, t.writersInFlight r = s.writersInFlight r)
    (busy : ∀ r, t.busyBit r = s.busyBit r) : t.ScoreboardInv := by
  simpa only [CoreState.ScoreboardInv, writers, busy] using h

theorem CoreState.writersInFlight_congr (hEX : t.lEX = s.lEX) (hMEM : t.lMEM = s.lMEM) (hWB : t.lWB = s.lWB)
    (r : Reg) : t.writersInFlight r = s.writersInFlight r := by
  simp only [CoreState.writersInFlight, hEX, hMEM, hWB]

theorem CoreState.busyBit_congr (h : t.busy = s.busy) (r : Reg) : t.busyBit r = s.busyBit r := by
  simp only [CoreState.busyBit, h]

/-- What touches neither the busy bits nor the three latches that hold writers keeps the invariant. -/
theorem CoreState.ScoreboardInv.of_kept (h : s.ScoreboardInv) (hEX : t.lEX = s.lEX) (hMEM : t.lMEM = s.lMEM)
    (hWB : t.lWB = s.lWB) (busy : t.busy = s.busy) : t.ScoreboardInv :=
  h.congr (CoreState.writersInFlight_congr hEX hMEM hWB) (CoreState.busyBit_congr busy)

/-- Which registers a latch writes is a matter of its valid bit and its record. -/
theorem Latch.produces_congr {l m : Latch c.xlen} (hv : m.valid = l.valid) (hr : m.toRecord = l.toRecord) (r : Reg) :
    m.produces r = l.produces r := by
  simp only [Latch.produces, hv, hr]

/-! The stages. -/

theorem wbStage_scoreboardInv (h : s.ScoreboardInv) : (wbStage s).ScoreboardInv := by
  cases strategy : c.strategy with
  | forwarding =>
    rw [CoreState.scoreboardInv_forwarding strategy] at h ⊢
    simp [busyBit_wbStage, h]
  | stallOnly =>
    rw [CoreState.scoreboardInv_stallOnly strategy] at h ⊢
    intro r
    have before := h r
    simp only [CoreState.writersInFlight_eq, busyBit_wbStage, wbStage_lEX, wbStage_lMEM,
      Latch.produces_of_invalid wbStage_lWB_valid] at before ⊢
    by_cases writes : s.lWB.produces r = true
    · obtain ⟨one, -⟩ := before
      simp only [writes, Bool.toNat_true, Bool.toNat_false, if_true, Bool.false_eq_true, false_iff] at one ⊢
      omega
    · simpa [writes] using before

/-- The writer in `L_MEM` goes to the empty `L_WB`. -/
theorem memStage_scoreboardInv (empty : s.lWB.valid = false) (h : s.ScoreboardInv) :
    (memStage s).ScoreboardInv := by
  rcases memStage_latches s with ⟨lMEM, lWB⟩ | ⟨valid, -, gone, v, passed⟩
  · exact h.of_kept (memStage_lEX s) lMEM lWB (memStage_busy s)
  · refine h.congr (fun r => ?_) (CoreState.busyBit_congr (memStage_busy s))
    have moved : (memStage s).lWB.produces r = s.lMEM.produces r :=
      Latch.produces_congr (by rw [passed, valid]) (by rw [passed]) r
    simp [CoreState.writersInFlight_eq, Latch.produces_of_invalid gone, Latch.produces_of_invalid empty, moved]

/-- The writer in `L_EX` goes to the empty `L_MEM`. -/
theorem exStage_scoreboardInv (empty : s.lMEM.valid = false) (h : s.ScoreboardInv) :
    (exStage s).ScoreboardInv := by
  refine h.congr (fun r => ?_) (CoreState.busyBit_congr (exStage_busy s))
  rcases exStage_cases s with ⟨-, e⟩ | ⟨t, -, -, ⟨_, _, -, rfl | ⟨-, rfl⟩⟩, e⟩ | ⟨l, t, valid, -, passed, e⟩
  · rw [e]
  · exact CoreState.writersInFlight_congr (by simp [e]) (by simp [e]) (by simp [e]) r
  · exact CoreState.writersInFlight_congr (by simp [e]) (by simp [e]) (by simp [e]) r
  · have gone : (exStage s).lEX.valid = false := by simp [e]
    have moved : (exStage s).lMEM.produces r = s.lEX.produces r :=
      Latch.produces_congr (by simp [e, valid]) (by simp [e, passed.toRecord]) r
    simp [CoreState.writersInFlight_eq, Latch.produces_of_invalid gone, Latch.produces_of_invalid empty, moved]

/-- Under `STALL_ONLY` an instruction that need not wait has no busy source and no busy destination (rule R181). -/
theorem CoreState.busyBit_of_not_mustStall (strategy : c.strategy = .stallOnly) {l : Latch c.xlen} {r : Reg}
    (h : s.mustStall l = false) (hr : r ∈ sources l.toRecord ∨ r ∈ dests l.toRecord) : s.busyBit r = false := by
  simp only [CoreState.mustStall, strategy, List.any_eq_false, List.mem_append, Bool.not_eq_true] at h
  exact h r hr

/-- An instruction issues to the empty `L_EX` only where none of its destinations has a writer, and marks them. -/
theorem CoreState.issue_scoreboardInv (empty : s.lEX.valid = false) (noStall : s.mustStall s.lD = false)
    (h : s.ScoreboardInv) : s.issue.ScoreboardInv := by
  cases strategy : c.strategy with
  | forwarding =>
    rw [CoreState.scoreboardInv_forwarding strategy] at h ⊢
    simpa [CoreState.issue, CoreState.markBusy, strategy] using h
  | stallOnly =>
    rw [CoreState.scoreboardInv_stallOnly strategy] at h ⊢
    intro r
    have before := h r
    have issued : s.issue.lEX.produces r = decide (r ∈ dests s.lD.toRecord) := rfl
    have busy : s.issue.busyBit r = if r ∈ dests s.lD.toRecord then true else s.busyBit r := by
      simp [CoreState.issue, CoreState.markBusy, strategy]
    simp only [CoreState.writersInFlight_eq, issued, busy, CoreState.issue_lMEM, CoreState.issue_lWB,
      Latch.produces_of_invalid empty] at before ⊢
    by_cases dest : r ∈ dests s.lD.toRecord
    · have free := CoreState.busyBit_of_not_mustStall strategy noStall (.inr dest)
      simp only [free, Bool.false_eq_true, false_iff] at before
      simp only [dest, decide_true, if_true, true_iff, Bool.toNat_true, Bool.toNat_false] at before ⊢
      omega
    · simpa [dest] using before

theorem drfStage_scoreboardInv (empty : s.lEX.valid = false) (h : s.ScoreboardInv) :
    (drfStage s).ScoreboardInv := by
  have allocated : (s.setStall false).allocateBranch.ScoreboardInv :=
    h.of_kept (by simp) (by simp) (by simp) (by simp)
  rcases drfStage_cases s with ⟨-, e⟩ | ⟨-, ⟨-, e⟩ | ⟨noStall, e⟩⟩ <;> rw [e]
  · exact h.of_kept rfl rfl rfl rfl
  · exact allocated.of_kept rfl rfl rfl rfl
  · exact CoreState.issue_scoreboardInv (by simpa using empty) noStall allocated

theorem CoreState.scoreboardInv_keptByStages : KeptByStages (c := c) CoreState.ScoreboardInv where
  wb _ := wbStage_scoreboardInv
  mem _ := memStage_scoreboardInv
  ex _ := exStage_scoreboardInv
  drf _ := drfStage_scoreboardInv
  fetch s _ h := h.of_kept (fetchStage_lEX s) (fetchStage_lMEM s) (fetchStage_lWB s) (fetchStage_busy s)
  count _ h := h.of_kept rfl rfl rfl rfl

end

end Sys2Proof.Machine
end

section
/-! SUPPORT. The branch-target buffer (spec 10_state.md rule R35; 45_branch_predictor.md rules R201, R204, R206, R209):
every stage keeps the invariant of the table, and no stage clears a valid bit. -/

namespace Sys2Proof.Machine

section

variable {c : Config} {s t : CoreState c}

/-! What keeps the invariant: entries that stay valid with their tags, and branches in Decode and Execute that stay. -/

theorem CoreState.lookup_none_congr (entries : ∀ i : Slot, t.btb[i.val].valid = s.btb[i.val].valid ∧
    t.btb[i.val].tag = s.btb[i.val].tag) (a : c.Value) : t.lookup a = none ↔ s.lookup a = none := by
  simp only [CoreState.lookup_eq_none, entries]

/-- The invariant speaks of the valid bits and tags of the table and of the valid latches only. -/
theorem CoreState.BtbInv.of_kept (h : s.BtbInv) (entries : ∀ i : Slot, t.btb[i.val].valid = s.btb[i.val].valid ∧
    t.btb[i.val].tag = s.btb[i.val].tag) (lD : t.lD.valid = true → t.lD = s.lD)
    (lEX : t.lEX.valid = true → t.lEX = s.lEX) : t.BtbInv := by
  constructor
  case unique => simpa only [CoreState.tagsUnique, entries] using h.unique
  case filled => simpa only [CoreState.filledFromZero, entries] using h.filled
  case missD =>
    intro valid
    rw [CoreState.lookup_none_congr entries]
    exact lD valid ▸ h.missD (lD valid ▸ valid)
  case hitD =>
    intro valid
    simp only [CoreState.ownsSlot, entries]
    exact lD valid ▸ h.hitD (lD valid ▸ valid)
  case slotEX =>
    intro valid
    simp only [CoreState.ownsSlot, entries]
    exact lEX valid ▸ h.slotEX (lEX valid ▸ valid)

theorem CoreState.BtbInv.of_btb (h : s.BtbInv) (btb : t.btb = s.btb) (lD : t.lD.valid = true → t.lD = s.lD)
    (lEX : t.lEX.valid = true → t.lEX = s.lEX) : t.BtbInv :=
  h.of_kept (fun i => by simp only [btb, and_self]) lD lEX

/-! The allocation (rule R204). -/

/-- The entry a branch was given is the valid entry of its address. -/
theorem CoreState.ownsSlot_allocate (s : CoreState c) (a : c.Value) (k : Kind) (u : c.Value) :
    (s.allocate a k u).ownsSlot s.victim a := by
  simp [CoreState.ownsSlot]

/-- A branch that has no entry gets the only one with its tag. -/
theorem CoreState.tagsUnique_allocate {a : c.Value} (k : Kind) (u : c.Value) (h : s.tagsUnique)
    (miss : s.lookup a = none) : (s.allocate a k u).tagsUnique := by
  rw [CoreState.lookup_eq_none] at miss
  intro i j
  simp only [CoreState.allocate_entry]
  by_cases hi : i = s.victim <;> by_cases hj : j = s.victim <;> simp only [hi, hj, if_true, if_false]
  · simp
  · exact fun _ valid tag => absurd tag.symm (miss j valid)
  · exact fun valid _ tag => absurd tag (miss i valid)
  · exact h i j

/-- The first invalid slot is filled, or the table is full and stays so. -/
theorem CoreState.filledFromZero_allocate (a : c.Value) (k : Kind) (u : c.Value) (h : s.filledFromZero) :
    (s.allocate a k u).filledFromZero := by
  intro i j below
  simp only [CoreState.allocate_entry]
  by_cases hj : j = s.victim
  · simp [hj]
  · rw [if_neg hj]
    rcases s.victim_cases with ⟨-, filled⟩ | ⟨full, -⟩
    · by_cases hi : i = s.victim
      · exact fun _ => filled j (lt_of_le_of_ne (hi ▸ below) hj)
      · rw [if_neg hi]
        exact h i j below
    · exact fun _ => full j

/-- No allocation clears a valid bit. -/
theorem CoreState.allocateBranch_valid (i : Slot) (h : s.btb[i.val].valid = true) :
    s.allocateBranch.btb[i.val].valid = true := by
  unfold CoreState.allocateBranch
  split
  · simp only [CoreState.setLD_btb, CoreState.allocate_entry]
    split_ifs
    · rfl
    · exact h
  · exact h

/-! Decode (rule R146). -/

/-- A conditional branch reads and writes no register, so it never waits in Decode. -/
theorem CoreState.mustStall_branch {l : Latch c.xlen} (branch : isCondBranch l.kind = true) :
    s.mustStall l = false := by
  have none : sources l.toRecord = [] ∧ dests l.toRecord = [] := by
    unfold sources dests base?
    revert branch
    cases l.kind <;> simp [isCondBranch, readsRs1, readsRs2, writesRd]
  unfold CoreState.mustStall
  cases c.strategy <;> simp [none]

/-- An instruction that waits in Decode is no branch, so nothing is allocated for it. -/
theorem CoreState.allocateBranch_of_mustStall (h : s.allocateBranch.mustStall s.allocateBranch.lD = true) :
    s.allocateBranch = s := by
  unfold CoreState.allocateBranch
  rw [if_neg]
  intro missed
  simp only [Bool.and_eq_true] at missed
  rw [CoreState.mustStall_branch (by simpa using missed.1)] at h
  cases h

theorem CoreState.allocateBranch_tables (valid : s.lD.valid = true) (h : s.BtbInv) :
    s.allocateBranch.tagsUnique ∧ s.allocateBranch.filledFromZero := by
  unfold CoreState.allocateBranch
  split
  next missed =>
    simp only [Bool.and_eq_true, Bool.not_eq_true'] at missed
    obtain ⟨branch, miss⟩ := missed
    exact ⟨CoreState.tagsUnique_allocate _ _ h.unique (h.missD valid branch miss),
      CoreState.filledFromZero_allocate _ _ _ h.filled⟩
  next => exact ⟨h.unique, h.filled⟩

/-- After the allocation the branch in Decode has its own entry, whether it hit in Fetch or not. -/
theorem CoreState.allocateBranch_ownsSlot (valid : s.lD.valid = true) (branch : isCondBranch s.lD.kind = true)
    (h : s.BtbInv) : s.allocateBranch.ownsSlot s.allocateBranch.lD.btbIdx s.lD.pc := by
  unfold CoreState.allocateBranch
  split
  next => exact s.ownsSlot_allocate ..
  next hit => exact h.hitD valid branch (by simpa [branch] using hit)

theorem drfStage_btbInv (h : s.BtbInv) : (drfStage s).BtbInv := by
  have started : (s.setStall false).BtbInv := h.of_btb rfl (fun _ => rfl) (fun _ => rfl)
  rcases drfStage_cases s with ⟨-, e⟩ | ⟨valid, ⟨wait, e⟩ | ⟨-, e⟩⟩ <;> rw [e]
  · exact started
  · rw [CoreState.allocateBranch_of_mustStall wait]
    exact h.of_btb rfl (fun _ => rfl) (fun _ => rfl)
  · obtain ⟨unique, filled⟩ := CoreState.allocateBranch_tables (s := s.setStall false) valid started
    constructor
    case unique => simpa [CoreState.tagsUnique] using unique
    case filled => simpa [CoreState.filledFromZero] using filled
    case missD => simp
    case hitD => simp
    case slotEX =>
      intro _ branch
      have own := CoreState.allocateBranch_ownsSlot (s := s.setStall false) valid (by simpa using branch) started
      simpa [CoreState.ownsSlot] using own

/-! Fetch (rules R147, R203). -/

/-- Passing an instruction on from Fetch keeps the invariant: a branch takes with it what the lookup said. -/
theorem CoreState.fetchPass_btbInv (r : Record c.xlen) (h : s.BtbInv) :
    (s.fetchPass (Latch.fetched s.pc r)).BtbInv := by
  rcases s.fetchPass_cases (Latch.fetched s.pc r) with ⟨i, hit, e⟩ | ⟨miss, e⟩ <;> rw [e]
  · exact ⟨h.unique, h.filled, fun _ _ missed => absurd missed (by simp), fun _ _ _ => CoreState.lookup_some hit,
      h.slotEX⟩
  · exact ⟨h.unique, h.filled, fun _ _ _ => miss, fun _ _ hit => absurd hit (by simp),
      h.slotEX⟩

theorem fetchStage_btbInv (h : s.BtbInv) : (fetchStage s).BtbInv := by
  rcases fetchStage_front s with ⟨lD, -⟩ | ⟨e, -, -, -, passed⟩
  · exact h.of_btb (fetchStage_btb s) (fun _ => lD) (fun _ => fetchStage_lEX s)
  · rw [passed]
    exact CoreState.fetchPass_btbInv _ h

theorem CoreState.btbInv_keptByStages : KeptByStages (c := c) CoreState.BtbInv where
  wb s h := h.of_btb (wbStage_btb s) (fun _ => wbStage_lD s) (fun _ => wbStage_lEX s)
  mem s _ h := h.of_btb (memStage_btb s) (fun _ => memStage_lD s) (fun _ => memStage_lEX s)
  ex s _ h := h.of_kept (fun i => ⟨(exStage_btb s i).1, (exStage_btb s i).2.1⟩)
    (fun valid => (exStage_lD s valid).1) (fun valid => (exStage_lEX s valid).1)
  drf _ _ := drfStage_btbInv
  fetch _ _ := fetchStage_btbInv
  count _ h := h.of_btb rfl (fun _ => rfl) (fun _ => rfl)

theorem drfStage_valid (i : Slot) (h : s.btb[i.val].valid = true) : (drfStage s).btb[i.val].valid = true := by
  have allocated := CoreState.allocateBranch_valid (s := s.setStall false) i h
  rcases drfStage_cases s with ⟨-, e⟩ | ⟨-, ⟨-, e⟩ | ⟨-, e⟩⟩ <;> rw [e]
  · exact h
  · exact allocated
  · simpa using allocated

/-- No stage clears a valid bit of the table (rule R209 (b)). -/
theorem CoreState.valid_keptByStages (i : Slot) : KeptByStages (c := c) fun s => s.btb[i.val].valid = true where
  wb s h := by simpa using h
  mem s _ h := by simpa using h
  ex s _ h := (exStage_btb s i).1.trans h
  drf _ _ := drfStage_valid i
  fetch s _ h := by simpa using h
  count _ h := h

end

/-- Settles O39: each of the two holds of every stage. -/
theorem tickKeepsBtbInv : Obligations.TickKeepsBtbInv :=
  fun _ _ => ⟨CoreState.btbInv_keptByStages.tick, fun i => (CoreState.valid_keptByStages i).tick⟩

end Sys2Proof.Machine
end

section
/-! SUPPORT. The pipeline invariant (spec 10_state.md rules R32, R35; 43_pipeline_stages.md; 44_hazard_forwarding.md
rules R185, R190; 45_branch_predictor.md rules R204, R210): its parts, each kept by every stage. The parts speak of
different matters: the predicted path and the table (`PathInv`), what follows a `HALT` (`HaltInv`), the captured
operands (`OperandInv`), the scoreboard, and what Fetch leaves behind (`FetchQuiet`). -/

namespace Sys2Proof.Machine

section

variable {c : Config} {s t : CoreState c}

theorem CoreState.recordAt_congr (h : t.imem = s.imem) (a : c.Value) : t.recordAt a = s.recordAt a := by
  simp only [CoreState.recordAt, CoreState.entryAt_congr h]

/-! The predicted path. -/

/-- The latch holds the record of its address, only a branch is predicted taken, and what follows it on the predicted
path is at `next`. -/
def Latch.OnPath (s : CoreState c) (next : c.Value) (l : Latch c.xlen) : Prop :=
  s.recordAt l.pc = some l.toRecord ∧ (l.predTaken = true → isCondBranch l.kind = true) ∧ next = l.predictedNext

/-- At `tag` the program has a conditional branch, and `target` is its taken target. -/
def CoreState.BranchAt (s : CoreState c) (tag target : c.Value) : Prop :=
  ∃ r, s.recordAt tag = some r ∧ isCondBranch r.kind = true ∧ target = branchTarget tag r.imm

/-- The instructions not past Execute stand on the predicted path, and the table holds branches of the program. -/
structure CoreState.PathInv (s : CoreState c) : Prop where
  decode : s.lD.valid = true → s.lD.OnPath s s.pc
  execute : s.lEX.valid = true → s.lEX.OnPath s (if s.lD.valid then s.lD.pc else s.pc)
  table : ∀ i : Slot, s.btb[i.val].valid = true → CoreState.BranchAt s s.btb[i.val].tag s.btb[i.val].target

theorem Latch.onPath_congr (h : t.imem = s.imem) (next : c.Value) (l : Latch c.xlen) :
    l.OnPath t next ↔ l.OnPath s next := by
  simp only [Latch.OnPath, CoreState.recordAt_congr h]

/-- The path does not look at the operands, nor at the slot. -/
theorem Latch.OnPath.of_record {next : c.Value} {l m : Latch c.xlen} (h : l.OnPath s next)
    (toRecord : m.toRecord = l.toRecord) (pc : m.pc = l.pc) (predTaken : m.predTaken = l.predTaken) :
    m.OnPath s next := by
  simpa only [Latch.OnPath, Latch.predictedNext, toRecord, pc, predTaken] using h

theorem CoreState.branchAt_congr (h : t.imem = s.imem) (tag target : c.Value) :
    CoreState.BranchAt t tag target ↔ CoreState.BranchAt s tag target := by
  simp only [CoreState.BranchAt, CoreState.recordAt_congr h]

/-- What keeps the program and the entries, and leaves in Decode and Execute nothing but what stood there, keeps the
path. -/
theorem CoreState.PathInv.of_kept (h : s.PathInv) (imem : t.imem = s.imem)
    (entries : ∀ i : Slot, t.btb[i.val].valid = s.btb[i.val].valid ∧ t.btb[i.val].tag = s.btb[i.val].tag ∧
      t.btb[i.val].target = s.btb[i.val].target)
    (lD : t.lD.valid = true → t.lD = s.lD ∧ t.pc = s.pc)
    (lEX : t.lEX.valid = true → t.lEX = s.lEX ∧ t.lD = s.lD ∧ t.pc = s.pc) : t.PathInv := by
  constructor
  case decode =>
    intro valid
    obtain ⟨eD, ePc⟩ := lD valid
    rw [Latch.onPath_congr imem, eD, ePc]
    exact h.decode (eD ▸ valid)
  case execute =>
    intro valid
    obtain ⟨eEX, eD, ePc⟩ := lEX valid
    rw [Latch.onPath_congr imem, eEX, eD, ePc]
    exact h.execute (eEX ▸ valid)
  case table =>
    intro i
    simpa only [entries, CoreState.branchAt_congr imem] using h.table i

/-- The allocation of Decode gives the branch in Decode its entry, and touches no other. -/
theorem CoreState.allocateBranch_pathInv (valid : s.lD.valid = true) (h : s.PathInv) :
    s.allocateBranch.PathInv := by
  have imem : s.allocateBranch.imem = s.imem := s.allocateBranch_imem
  constructor
  case decode =>
    intro _
    simpa [Latch.onPath_congr imem] using (h.decode valid).of_record (by simp) (by simp) (by simp)
  case execute =>
    simpa [Latch.onPath_congr imem] using h.execute
  case table =>
    intro i
    rw [CoreState.branchAt_congr imem]
    unfold CoreState.allocateBranch
    split
    next missed =>
      simp only [CoreState.setLD_btb, CoreState.allocate_entry]
      split_ifs
      · obtain ⟨record, -⟩ := h.decode valid
        simp only [Bool.and_eq_true] at missed
        exact fun _ => ⟨s.lD.toRecord, record, missed.1, rfl⟩
      · exact h.table i
    next => exact h.table i

/-- An instruction that issues stands in Execute where it stood in Decode. -/
theorem CoreState.issue_pathInv (valid : s.lD.valid = true) (h : s.PathInv) : s.issue.PathInv := by
  have imem : s.issue.imem = s.imem := s.issue_imem
  constructor
  case decode => simp
  case execute =>
    intro _
    simpa [Latch.onPath_congr imem] using (h.decode valid).of_record (by simp) (by simp) (by simp)
  case table => simpa [CoreState.branchAt_congr imem] using h.table

theorem drfStage_pathInv (h : s.PathInv) : (drfStage s).PathInv := by
  have started : (s.setStall false).PathInv := ⟨h.decode, h.execute, h.table⟩
  rcases drfStage_cases s with ⟨-, e⟩ | ⟨valid, ⟨wait, e⟩ | ⟨-, e⟩⟩ <;> rw [e]
  · exact started
  · rw [CoreState.allocateBranch_of_mustStall wait]
    exact ⟨h.decode, h.execute, h.table⟩
  · exact CoreState.issue_pathInv (by simpa using valid) (CoreState.allocateBranch_pathInv valid started)

/-- Fetch passes on the record at `pc`, predicted taken only where the table has the branch, to its target. -/
theorem CoreState.fetchPass_onPath {e : Entry c.xlen} (entry : s.entryAt s.pc = some e) (h : s.PathInv) :
    (s.fetchPass (Latch.fetched s.pc (e.toRecord c.immBits))).lD.OnPath s
      (s.fetchPass (Latch.fetched s.pc (e.toRecord c.immBits))).pc := by
  have record : s.recordAt s.pc = some (e.toRecord c.immBits) := by rw [CoreState.recordAt, entry]; rfl
  rcases s.fetchPass_cases (Latch.fetched s.pc (e.toRecord c.immBits)) with ⟨i, hit, passed⟩ | ⟨-, passed⟩ <;>
    rw [passed]
  · obtain ⟨valid, tag⟩ := CoreState.lookup_some hit
    obtain ⟨r, found, branch, target⟩ := h.table i valid
    rw [tag, record, Option.some.injEq] at found
    subst found
    rw [tag] at target
    refine ⟨record, fun _ => branch, ?_⟩
    simp only [CoreState.passToD_pc, CoreState.passToD_lD, Latch.predictedNext, target]
    rfl
  · exact ⟨record, fun taken => absurd taken (by simp), rfl⟩

theorem fetchStage_pathInv (front : s.lD.valid = s.stall) (h : s.PathInv) : (fetchStage s).PathInv := by
  rcases fetchStage_front s with ⟨lD, pc⟩ | ⟨e, -, noStall, entry, passed⟩
  · exact h.of_kept (fetchStage_imem s) (fun i => by simp) (fun _ => ⟨lD, pc⟩)
      (fun _ => ⟨fetchStage_lEX s, lD, pc⟩)
  · have path := CoreState.fetchPass_onPath entry h
    have empty : s.lD.valid = false := front.trans noStall
    rw [passed]
    have imem := s.fetchPass_imem (Latch.fetched s.pc (e.toRecord c.immBits))
    constructor
    case decode => exact fun _ => (Latch.onPath_congr imem ..).mpr path
    case execute =>
      simpa [empty, Latch.onPath_congr imem] using h.execute
    case table => simpa [CoreState.branchAt_congr imem] using h.table

theorem CoreState.pathInv_keptByStages : KeptByStages (c := c) CoreState.PathInv where
  wb s h := h.of_kept (wbStage_imem s) (fun i => by simp) (fun _ => ⟨wbStage_lD s, wbStage_pc s⟩)
    (fun _ => ⟨wbStage_lEX s, wbStage_lD s, wbStage_pc s⟩)
  mem s _ h := h.of_kept (memStage_imem s) (fun i => by simp) (fun _ => ⟨memStage_lD s, memStage_pc s⟩)
    (fun _ => ⟨memStage_lEX s, memStage_lD s, memStage_pc s⟩)
  ex s _ h := h.of_kept (exStage_imem s) (exStage_btb s) (exStage_lD s) (exStage_lEX s)
  drf _ _ := drfStage_pathInv
  fetch _ := fetchStage_pathInv
  count _ h := ⟨h.decode, h.execute, h.table⟩

end

end Sys2Proof.Machine
end

section
/-! SUPPORT. The pipeline invariant, continued: what follows a `HALT` (rules R130, R234), what Fetch leaves behind
(rule R160), the captured operands (rules R185, R187, R190), and the whole. -/

namespace Sys2Proof.Machine

section

variable {c : Config} {s t : CoreState c}

/-! Behind a `HALT`. -/

/-- Nothing comes from Decode: fetching is disabled, and Decode is empty and does not stall. -/
def CoreState.DecodeStopped (s : CoreState c) : Prop :=
  s.fetchEnabled = false ∧ s.stall = false ∧ s.lD.valid = false

/-- A `HALT` past Decode is the youngest instruction in flight, and only such a `HALT` disables fetching. -/
structure CoreState.HaltInv (s : CoreState c) : Prop where
  ex : s.lEX.holdsHalt = true → s.DecodeStopped
  mem : s.lMEM.holdsHalt = true → s.DecodeStopped ∧ s.lEX.valid = false ∧ s.pc = nextPc s.lMEM.pc
  wb : s.lWB.holdsHalt = true →
    s.DecodeStopped ∧ s.lEX.valid = false ∧ s.lMEM.valid = false ∧ s.pc = nextPc s.lWB.pc
  done : s.halted = true →
    s.DecodeStopped ∧ s.lEX.valid = false ∧ s.lMEM.valid = false ∧ s.lWB.valid = false ∧
      s.lWB.kind = .halt ∧ s.pc = nextPc s.lWB.pc
  off : s.fetchEnabled = false →
    s.lEX.holdsHalt = true ∨ s.lMEM.holdsHalt = true ∨ s.lWB.holdsHalt = true ∨ s.halted = true

theorem Latch.holdsHalt_eq_true {l : Latch c.xlen} : l.holdsHalt = true ↔ l.valid = true ∧ l.kind = .halt := by
  simp [Latch.holdsHalt]

@[simp] theorem Latch.holdsHalt_of_invalid {l : Latch c.xlen} (h : l.valid = false) : l.holdsHalt = false := by
  simp [Latch.holdsHalt, h]

/-- A `HALT` that retires stops the machine. -/
theorem wbStage_haltInv (h : s.HaltInv) : (wbStage s).HaltInv := by
  constructor
  case ex => simpa [CoreState.DecodeStopped] using h.ex
  case mem => simpa [CoreState.DecodeStopped] using h.mem
  case wb => simp [wbStage_lWB_valid]
  case done =>
    rw [wbStage_halted, Bool.or_eq_true]
    rintro (halted | retires)
    · obtain ⟨stopped, lEX, lMEM, lWB, rest⟩ := h.done halted
      rw [wbStage_eq_self lWB]
      exact ⟨stopped, lEX, lMEM, lWB, rest⟩
    · obtain ⟨stopped, lEX, lMEM, pc⟩ := h.wb retires
      obtain ⟨-, halt⟩ := Latch.holdsHalt_eq_true.mp retires
      simpa [CoreState.DecodeStopped, wbStage_lWB, lEX, lMEM, pc, halt] using stopped
  case off =>
    intro off
    simp only [wbStage_fetchEnabled] at off
    simpa [wbStage_halted, wbStage_lWB_valid, or_comm] using h.off off

/-- A `HALT` goes from `L_MEM` to `L_WB`. -/
theorem memStage_haltInv (empty : s.lWB.valid = false) (h : s.HaltInv) : (memStage s).HaltInv := by
  rcases memStage_latches s with ⟨lMEM, lWB⟩ | ⟨valid, -, gone, v, lWB⟩
  · constructor
    case ex => simpa [CoreState.DecodeStopped] using h.ex
    case mem => simpa [CoreState.DecodeStopped, lMEM] using h.mem
    case wb => simp [lWB, empty]
    case done => simpa [CoreState.DecodeStopped, lMEM, lWB] using h.done
    case off => simpa [lMEM, lWB] using h.off
  · have moved : (memStage s).lWB.holdsHalt = s.lMEM.holdsHalt := by simp [lWB, Latch.holdsHalt, valid]
    constructor
    case ex => simpa [CoreState.DecodeStopped] using h.ex
    case mem => simp [gone]
    case wb =>
      rw [moved]
      simpa [CoreState.DecodeStopped, gone, lWB] using h.mem
    case done =>
      rw [memStage_halted]
      intro halted
      obtain ⟨-, -, lMEM, -⟩ := h.done halted
      simp [valid] at lMEM
    case off => simpa [moved, gone, empty] using h.off

theorem exKind_halt {l : Latch c.xlen} (h : l.kind = .halt) : exKind l s = .pass l s := by
  unfold exKind
  rw [h]
  rfl

/-- A `HALT` in Execute with nothing behind it is on the path, so `pc` holds the address after it. -/
theorem CoreState.PathInv.pc_of_halt (h : s.PathInv) (halt : s.lEX.holdsHalt = true) (empty : s.lD.valid = false) :
    s.pc = nextPc s.lEX.pc := by
  obtain ⟨valid, kind⟩ := Latch.holdsHalt_eq_true.mp halt
  obtain ⟨-, branch, next⟩ := h.execute valid
  have notTaken : s.lEX.predTaken = false := by
    by_contra taken
    simpa [kind, isCondBranch] using branch (by simpa using taken)
  simpa [empty, Latch.predictedNext, notTaken] using next

/-- A `HALT` goes from `L_EX` to `L_MEM`. Any other instruction that executes is not behind a `HALT`, and its redirect
enables fetching. -/
theorem exStage_haltInv (empty : s.lMEM.valid = false) (path : s.PathInv) (h : s.HaltInv) : (exStage s).HaltInv := by
  rcases exStage_cases s with ⟨-, e⟩ | ⟨t, -, -, ⟨_, _, -, rfl | ⟨-, rfl⟩⟩, e⟩ | ⟨l, t, valid, kind, passed, e⟩
  · rw [e]
    exact h
  · rw [e]
    exact ⟨h.ex, h.mem, h.wb, h.done, h.off⟩
  · rw [e]
    exact ⟨h.ex, h.mem, h.wb, h.done, h.off⟩
  · have notWB : s.lWB.holdsHalt = false := by
      by_contra halt
      obtain ⟨-, lEX, -⟩ := h.wb (by simpa using halt)
      simp [valid] at lEX
    have notDone : s.halted = false := by
      by_contra halted
      obtain ⟨-, lEX, -⟩ := h.done (by simpa using halted)
      simp [valid] at lEX
    have off := h.off
    simp only [Latch.holdsHalt_of_invalid empty, notWB, notDone, Bool.false_eq_true, or_false] at off
    rw [e]
    by_cases halt : s.lEX.kind = .halt
    · rw [exKind_halt halt] at kind
      cases kind
      have holds := Latch.holdsHalt_eq_true.mpr ⟨valid, halt⟩
      obtain ⟨enabled, stall, lD⟩ := h.ex holds
      have pc := path.pc_of_halt holds lD
      refine ⟨by simp, fun _ => ⟨⟨enabled, stall, lD⟩, rfl, pc⟩, by simp [notWB], by simp [notDone], fun _ => ?_⟩
      simp [Latch.holdsHalt, halt]
    · refine ⟨by simp, ?_, by simp [passed.lWB, notWB], by simp [passed.halted, notDone], ?_⟩
      · simp [Latch.holdsHalt, passed.toRecord, halt]
      · intro disabled
        exfalso
        rcases passed.flow with ⟨-, -, -, -, kept⟩ | ⟨-, -, -, enabled⟩
        · exact halt (Latch.holdsHalt_eq_true.mp (off (kept ▸ disabled))).2
        · simp [enabled] at disabled

/-- No `HALT` is past Decode, and fetching is enabled. -/
structure CoreState.NoHaltPast (s : CoreState c) : Prop where
  ex : s.lEX.holdsHalt = false
  mem : s.lMEM.holdsHalt = false
  wb : s.lWB.holdsHalt = false
  done : s.halted = false
  enabled : s.fetchEnabled = true

theorem CoreState.NoHaltPast.haltInv (h : s.NoHaltPast) : s.HaltInv := by
  constructor <;> simp [h.ex, h.mem, h.wb, h.done, h.enabled]

/-- An instruction that Fetch may pass on, or that is in Decode, is not behind a `HALT`. -/
theorem CoreState.HaltInv.noHaltPast (h : s.HaltInv) (running : s.fetchEnabled = true ∨ s.lD.valid = true) :
    s.NoHaltPast := by
  have notStopped : ¬s.DecodeStopped := by
    rintro ⟨disabled, -, empty⟩
    simp [disabled, empty] at running
  have enabled : s.fetchEnabled = true := by
    by_contra off
    rcases h.off (by simpa using off) with halt | halt | halt | halt
    · exact notStopped (h.ex halt)
    · exact notStopped (h.mem halt).1
    · exact notStopped (h.wb halt).1
    · exact notStopped (h.done halt).1
  refine ⟨?_, ?_, ?_, ?_, enabled⟩ <;> rw [← Bool.not_eq_true] <;> intro halt
  · exact notStopped (h.ex halt)
  · exact notStopped (h.mem halt).1
  · exact notStopped (h.wb halt).1
  · exact notStopped (h.done halt).1

/-- A `HALT` that issues disables fetching. -/
theorem CoreState.issue_haltInv (noStall : s.stall = false) (h : s.NoHaltPast) : s.issue.HaltInv := by
  have issued : s.issue.lEX.holdsHalt = true ↔ s.lD.kind = .halt := by
    rw [Latch.holdsHalt_eq_true]
    simp
  by_cases halt : s.lD.kind = .halt
  · constructor
    case ex => exact fun _ => ⟨s.issue_fetchEnabled.mpr (.inr halt), by simpa using noStall, rfl⟩
    case mem => simp [h.mem]
    case wb => simp [h.wb]
    case done => simp [h.done]
    case off => exact fun _ => .inl (issued.mpr halt)
  · refine CoreState.NoHaltPast.haltInv ⟨?_, by simpa using h.mem, by simpa using h.wb, by simpa using h.done, ?_⟩
    · rwa [← Bool.not_eq_true, issued]
    · rw [← Bool.not_eq_false, s.issue_fetchEnabled]
      simp [h.enabled, halt]

theorem drfStage_haltInv (h : s.HaltInv) : (drfStage s).HaltInv := by
  rcases drfStage_cases s with ⟨-, e⟩ | ⟨valid, wait⟩
  · rw [e]
    have cleared : s.DecodeStopped → (s.setStall false).DecodeStopped :=
      fun ⟨enabled, _, empty⟩ => ⟨enabled, rfl, empty⟩
    exact ⟨fun halt => cleared (h.ex halt), fun halt => (h.mem halt).imp_left cleared,
      fun halt => (h.wb halt).imp_left cleared, fun halt => (h.done halt).imp_left cleared, h.off⟩
  · obtain ⟨ex, mem, wb, done, enabled⟩ := h.noHaltPast (.inr valid)
    have allocated : (s.setStall false).allocateBranch.NoHaltPast := by
      constructor <;> simpa
    rcases wait with ⟨-, e⟩ | ⟨-, e⟩ <;> rw [e]
    · exact CoreState.NoHaltPast.haltInv
        ⟨allocated.ex, allocated.mem, allocated.wb, allocated.done, allocated.enabled⟩
    · exact CoreState.issue_haltInv (by simp) allocated

theorem fetchStage_haltInv (h : s.HaltInv) : (fetchStage s).HaltInv := by
  rcases fetchStage_front s with ⟨lD, pc⟩ | ⟨_, enabled, -⟩
  · constructor
    case ex => simpa [CoreState.DecodeStopped, lD] using h.ex
    case mem => simpa [CoreState.DecodeStopped, lD, pc] using h.mem
    case wb => simpa [CoreState.DecodeStopped, lD, pc] using h.wb
    case done => simpa [CoreState.DecodeStopped, lD, pc] using h.done
    case off => simpa using h.off
  · obtain ⟨ex, mem, wb, done, enabled⟩ := h.noHaltPast (.inl enabled)
    apply CoreState.NoHaltPast.haltInv
    constructor <;> simpa

/-- The path and what follows a `HALT`, together: where `pc` stands at a `HALT` in Execute is said by the path. -/
theorem CoreState.haltInv_keptByStages : KeptByStages (c := c) fun s => s.PathInv ∧ s.HaltInv where
  wb _ h := ⟨CoreState.pathInv_keptByStages.wb _ h.1, wbStage_haltInv h.2⟩
  mem _ empty h := ⟨CoreState.pathInv_keptByStages.mem _ empty h.1, memStage_haltInv empty h.2⟩
  ex _ empty h := ⟨CoreState.pathInv_keptByStages.ex _ empty h.1, exStage_haltInv empty h.1 h.2⟩
  drf _ _ h := ⟨drfStage_pathInv h.1, drfStage_haltInv h.2⟩
  fetch _ front h := ⟨fetchStage_pathInv front h.1, fetchStage_haltInv h.2⟩
  count _ h := ⟨CoreState.pathInv_keptByStages.count _ h.1, ⟨h.2.ex, h.2.mem, h.2.wb, h.2.done, h.2.off⟩⟩

/-! What Fetch leaves behind. -/

/-- No bubble is pending, and with fetching disabled nothing is in `L_F`. -/
def CoreState.FetchQuiet (s : CoreState c) : Prop :=
  s.redirectPending = false ∧ (s.fetchEnabled = false → s.lF.valid = false)

theorem fetchStage_fetchQuiet (s : CoreState c) : (fetchStage s).FetchQuiet := by
  rcases fetchStage_cases s with ⟨-, e⟩ | ⟨quiet, -, e⟩ | ⟨_, quiet, on, -, -, e⟩ | ⟨_, quiet, on, -, -, e⟩ <;> rw [e]
  · exact ⟨rfl, fun _ => rfl⟩
  · exact ⟨quiet, fun _ => rfl⟩
  · simp [CoreState.FetchQuiet, quiet, on]
  · simp [CoreState.FetchQuiet, quiet, on]

/-- A tick that comes to Fetch leaves it quiet; one that ends earlier left the front of the pipeline alone. -/
theorem tick_fetchQuiet (h : s.FetchQuiet) : (tick s).FetchQuiet := by
  rcases tick_cases s with ⟨-, e⟩ | ⟨-, -, e⟩ | ⟨-, -, -, e⟩ | ⟨-, -, noFault, raised, e⟩ | ⟨-, -, -, -, e⟩
  · rwa [e]
  · simpa [e, CoreState.FetchQuiet] using h
  · simpa [e, CoreState.FetchQuiet] using h
  · rcases exStage_front (memStage (wbStage s)) with ⟨-, -, -, lF, -, enabled, pending⟩ | ⟨-, kept, -⟩
    · simpa [e, CoreState.FetchQuiet, lF, enabled, pending] using h
    · exact absurd (kept ▸ noFault) raised
  · rw [e]
    exact fetchStage_fetchQuiet _

/-! The captured operands. -/

/-- The operands captured for the instruction in Execute are what the older instructions leave in their registers. -/
def CoreState.OperandInv (s : CoreState c) : Prop :=
  s.lEX.valid = true → s.drained.fault.kind = .none →
    (readsRs1 s.lEX.kind = true → s.lEX.rs1Value = s.drained.reg s.lEX.rs1) ∧
      (readsRs2 s.lEX.kind = true → s.lEX.rs2Value = s.drained.reg s.lEX.rs2)

theorem CoreState.drained_fault_none :
    s.drained.fault.kind = .none ↔
      s.fault.kind = .none ∧
        ¬(s.lMEM.valid = true ∧ (isLoad s.lMEM.kind = true ∨ isStore s.lMEM.kind = true) ∧
          c.dmemSize ≤ s.lMEM.memAddr.toNat) := by
  rw [CoreState.drained_fault, memStage_fault_none, wbStage_fault, wbStage_lMEM]

/-- What the instructions past Execute will have written depends on them, the registers and the data memory. -/
theorem CoreState.reg_drained_congr (x : t.x = s.x) (dmem : t.dmem = s.dmem) (lMEM : t.lMEM = s.lMEM)
    (lWB : t.lWB = s.lWB) (noFault : s.drained.fault.kind = .none) (noFault' : t.drained.fault.kind = .none) (r : Reg) :
    t.drained.reg r = s.drained.reg r := by
  rw [CoreState.reg_drained noFault, CoreState.reg_drained noFault']
  simp only [CoreState.loadedLatch, lMEM, lWB, dmem, CoreState.reg_congr x]

theorem CoreState.drained_fault_none_congr (fault : t.fault = s.fault) (lMEM : t.lMEM = s.lMEM) :
    t.drained.fault.kind = .none ↔ s.drained.fault.kind = .none := by
  simp only [CoreState.drained_fault_none, fault, lMEM]

theorem CoreState.OperandInv.of_kept (h : s.OperandInv) (lEX : t.lEX = s.lEX) (x : t.x = s.x) (dmem : t.dmem = s.dmem)
    (fault : t.fault = s.fault) (lMEM : t.lMEM = s.lMEM) (lWB : t.lWB = s.lWB) : t.OperandInv := by
  intro valid noFault
  have noFault' := (CoreState.drained_fault_none_congr fault lMEM).mp noFault
  simp only [lEX, CoreState.reg_drained_congr x dmem lMEM lWB noFault' noFault]
  exact h (lEX ▸ valid) noFault'

/-- Behind a recorded fault nothing is claimed. -/
theorem CoreState.OperandInv.of_fault (fault : s.fault.kind ≠ .none) : s.OperandInv :=
  fun _ noFault => absurd (CoreState.drained_fault_none.mp noFault).1 fault

/-- A stage that does part of what draining does leaves the drained state. -/
theorem CoreState.OperandInv.of_drained (h : s.OperandInv) (lEX : t.lEX = s.lEX) (drained : t.drained = s.drained) :
    t.OperandInv := by
  simpa only [CoreState.OperandInv, lEX, drained] using h

theorem wbStage_drained : (wbStage s).drained = s.drained := by
  simp only [CoreState.drained, wbStage_wbStage]

theorem memStage_drained (empty : s.lWB.valid = false) (noFault : (memStage s).fault.kind = .none) :
    (memStage s).drained = s.drained := by
  have done : memStage (wbStage (memStage s)) = wbStage (memStage s) :=
    memStage_eq_self (by simpa using memStage_lMEM_valid noFault)
  simp only [CoreState.drained, done, wbStage_wbStage, wbStage_eq_self empty, wbStage_fault, ite_self,
    ne_eq, noFault, not_true_eq_false, if_false]

theorem memStage_operandInv (empty : s.lWB.valid = false) (h : s.OperandInv) : (memStage s).OperandInv := by
  by_cases noFault : (memStage s).fault.kind = .none
  · exact h.of_drained (memStage_lEX s) (memStage_drained empty noFault)
  · exact .of_fault noFault

theorem exStage_operandInv (h : s.OperandInv) : (exStage s).OperandInv := by
  rcases exStage_cases s with ⟨-, e⟩ | ⟨t, -, -, ⟨_, _, fault, rfl | ⟨-, rfl⟩⟩, e⟩ | ⟨l, t, -, -, -, e⟩ <;> rw [e]
  · exact h
  · exact .of_fault fault
  · exact .of_fault fault
  · exact fun valid => absurd valid (by simp)

/-- A load in Memory changes what it produces in its `rd` only. -/
theorem CoreState.producedValue_loadedLatch {l : Latch c.xlen} {r : Reg} (h : isLoad l.kind = true → l.rd ≠ r) :
    (s.loadedLatch l).producedValue r = l.producedValue r := by
  unfold CoreState.loadedLatch
  split
  next load => simp [Latch.producedValue, h load]
  next => rfl

/-- Where Decode need not stall, the operand it takes is what the older instructions leave in the register: under
`FORWARDING` a load that is still in Memory would have stalled it, under `STALL_ONLY` any writer (rules R187, R190). -/
theorem CoreState.operandValue_eq_drained {l : Latch c.xlen} {r : Reg} (board : s.ScoreboardInv)
    (noFault : s.drained.fault.kind = .none) (noStall : s.mustStall l = false) (source : r ∈ sources l.toRecord) :
    s.operandValue r = s.drained.reg r := by
  rw [CoreState.reg_drained noFault]
  cases strategy : c.strategy with
  | forwarding =>
    simp only [CoreState.operandValue, CoreState.mustStall, strategy] at noStall ⊢
    by_cases writes : s.lMEM.produces r = true
    · rw [if_pos writes, if_pos writes, CoreState.producedValue_loadedLatch]
      rintro load rfl
      simp only [Latch.produces, Bool.and_eq_true] at writes
      simp [writes.1, load, source] at noStall
    · rw [if_neg writes, if_neg writes]
  | stallOnly =>
    obtain ⟨one, busy⟩ := (CoreState.scoreboardInv_stallOnly strategy).mp board r
    simp only [CoreState.busyBit_of_not_mustStall strategy noStall (.inl source), Bool.false_eq_true, false_iff,
      CoreState.writersInFlight_eq] at busy one
    have noMEM : s.lMEM.produces r = false := by
      rw [← Bool.toNat_eq_zero]
      omega
    have noWB : s.lWB.produces r = false := by
      rw [← Bool.toNat_eq_zero]
      omega
    simp [CoreState.operandValue, strategy, noMEM, noWB]

/-- The operands are captured where the instruction issues. -/
theorem CoreState.issue_operandInv (board : s.ScoreboardInv) (noStall : s.mustStall s.lD = false) :
    s.issue.OperandInv := by
  intro _ noFault
  have noFault' := (CoreState.drained_fault_none_congr s.issue_fault s.issue_lMEM).mp noFault
  have drained (r : Reg) : s.issue.drained.reg r = s.drained.reg r :=
    CoreState.reg_drained_congr s.issue_x s.issue_dmem s.issue_lMEM s.issue_lWB noFault' noFault r
  have operand {r : Reg} (source : r ∈ sources s.lD.toRecord) : s.operandValue r = s.issue.drained.reg r := by
    rw [drained, CoreState.operandValue_eq_drained board noFault' noStall source]
  refine ⟨fun reads => ?_, fun reads => ?_⟩
  · exact (if_pos reads).trans (operand (mem_sources.mpr (.inl ⟨reads, rfl⟩)))
  · exact (if_pos reads).trans (operand (mem_sources.mpr (.inr ⟨reads, rfl⟩)))

theorem drfStage_operandInv (empty : s.lEX.valid = false) (board : s.ScoreboardInv) : (drfStage s).OperandInv := by
  rcases drfStage_cases s with ⟨-, e⟩ | ⟨-, ⟨-, e⟩ | ⟨noStall, e⟩⟩ <;> rw [e]
  · exact fun valid => absurd valid (by simp [empty])
  · exact fun valid => absurd valid (by simp [empty])
  · exact CoreState.issue_operandInv (board.of_kept (by simp) (by simp) (by simp) (by simp)) noStall

/-- The operands and the scoreboard, together: that Decode need not wait is said by the scoreboard. -/
theorem CoreState.operandInv_keptByStages : KeptByStages (c := c) fun s => s.ScoreboardInv ∧ s.OperandInv where
  wb s h := ⟨wbStage_scoreboardInv h.1, h.2.of_drained (wbStage_lEX s) wbStage_drained⟩
  mem _ empty h := ⟨memStage_scoreboardInv empty h.1, memStage_operandInv empty h.2⟩
  ex _ empty h := ⟨exStage_scoreboardInv empty h.1, exStage_operandInv h.2⟩
  drf _ empty h := ⟨drfStage_scoreboardInv empty h.1, drfStage_operandInv empty h.1⟩
  fetch s front h := ⟨CoreState.scoreboardInv_keptByStages.fetch s front h.1, h.2.of_kept (fetchStage_lEX s)
    (fetchStage_x s) (fetchStage_dmem s) (fetchStage_fault s) (fetchStage_lMEM s) (fetchStage_lWB s)⟩
  count s h := ⟨CoreState.scoreboardInv_keptByStages.count s h.1, h.2.of_kept rfl rfl rfl rfl rfl rfl⟩

/-! The whole. -/

theorem CoreState.fetchStopped_iff (quiet : s.FetchQuiet) : s.fetchStopped ↔ s.DecodeStopped := by
  constructor
  · rintro ⟨disabled, noStall, -, lD⟩
    exact ⟨disabled, noStall, lD⟩
  · rintro ⟨disabled, noStall, lD⟩
    exact ⟨disabled, noStall, quiet.2 disabled, lD⟩

/-- The pipeline invariant is its parts. -/
theorem CoreState.pipelineInv_iff :
    s.PipelineInv ↔ (s.PathInv ∧ s.HaltInv) ∧ s.FetchQuiet ∧ s.ScoreboardInv ∧ s.OperandInv := by
  constructor
  · intro h
    have quiet : s.FetchQuiet := by
      refine ⟨h.noBubble, fun disabled => ?_⟩
      have stopped : s.fetchStopped := by
        rcases h.fetchOff disabled with halt | halt | halt | halt
        · exact h.haltEX halt
        · exact (h.haltMEM halt).1
        · exact (h.haltWB halt).1
        · exact (h.haltDone halt).1
      obtain ⟨-, -, lF, -⟩ := stopped
      exact lF
    have stopped := CoreState.fetchStopped_iff quiet
    refine ⟨⟨⟨?_, ?_, h.target⟩, ?_⟩, quiet, h.scoreboard, h.operands⟩
    · exact fun valid => ⟨h.storeD valid, h.predD valid, h.pathD valid⟩
    · exact fun valid => ⟨h.storeEX valid, h.predEX valid, h.pathEX valid⟩
    · exact ⟨by simpa only [stopped] using h.haltEX, by simpa only [stopped] using h.haltMEM,
        by simpa only [stopped] using h.haltWB, by simpa only [stopped] using h.haltDone, h.fetchOff⟩
  · rintro ⟨⟨path, halt⟩, quiet, board, operands⟩
    have stopped := CoreState.fetchStopped_iff quiet
    constructor
    case storeD => exact fun valid => (path.decode valid).1
    case storeEX => exact fun valid => (path.execute valid).1
    case predD => exact fun valid => (path.decode valid).2.1
    case predEX => exact fun valid => (path.execute valid).2.1
    case pathD => exact fun valid => (path.decode valid).2.2
    case pathEX => exact fun valid => (path.execute valid).2.2
    case target => exact path.table
    case noBubble => exact quiet.1
    case haltEX => simpa only [stopped] using halt.ex
    case haltMEM => simpa only [stopped] using halt.mem
    case haltWB => simpa only [stopped] using halt.wb
    case haltDone => simpa only [stopped] using halt.done
    case fetchOff => exact halt.off
    case operands => exact operands
    case scoreboard => exact board

end

/-- Settles O53: the stages keep the path with what follows a `HALT`, and the scoreboard with the operands; the tick
keeps what Fetch leaves behind. -/
theorem tickKeepsPipelineInv : Obligations.TickKeepsPipelineInv := by
  intro c s h
  obtain ⟨path, quiet, operands⟩ := CoreState.pipelineInv_iff.mp h
  exact CoreState.pipelineInv_iff.mpr ⟨CoreState.haltInv_keptByStages.tick path, tick_fetchQuiet quiet,
    CoreState.operandInv_keptByStages.tick operands⟩

end Sys2Proof.Machine
end

section
/-! SUPPORT. What an instruction of the sequential machine leaves alone (spec 10_state.md rules R27, R36;
70_reset_and_hazards.md rule R250), and the statements that follow from it. -/

namespace Sys2Proof.Machine

section

variable {c : Config} {s t : CoreState c} {l : Layer}

/-- The kinds that set the flags (rule R27). -/
def flagSetters : List Kind := [.add, .sub, .mul, .div, .addl, .subl, .cmp, .cml]

theorem SameRest.refl (s : CoreState c) : SameRest s s := ⟨rfl, rfl, rfl, rfl, rfl, rfl, rfl, rfl, rfl, rfl, rfl, rfl⟩

/-- The pipeline state is as it was, and so are the flags unless the kind sets them. -/
structure ExecFrame (k : Kind) (s t : CoreState c) : Prop where
  rest : SameRest s t
  flags : k ∈ flagSetters ∨ t.flags = s.flags

theorem ExecFrame.of_kept {k : Kind} (rest : SameRest s t) (flags : t.flags = s.flags) : ExecFrame k s t :=
  ⟨rest, .inr flags⟩

theorem CoreState.transfer_execFrame (k : Kind) (s : CoreState c) (a : c.Value) : ExecFrame k s (s.transfer a) := by
  unfold CoreState.transfer
  split <;> exact .of_kept (.refl s) rfl

theorem CoreState.branch_execFrame (k : Kind) (s : CoreState c) (taken : Bool) (imm : c.Value) :
    ExecFrame k s (s.branch taken imm) := by
  unfold CoreState.branch
  split
  · exact s.transfer_execFrame k _
  · exact .of_kept (.refl s) rfl

/-- Every instruction answers a next state on the same layer with that frame. -/
theorem exec_execFrame (i : Instr) (s : CoreState c) (l : Layer) :
    ∃ t : CoreState c, exec i (s.onLayer l) = .next (t.onLayer l) ∧ ExecFrame i.kind s t := by
  cases i with
  | add | sub | mul | addl | subl | cmp | cml =>
    exact ⟨_, rfl, .refl s, .inl (by simp [flagSetters, Instr.kind, Instr.record])⟩
  | and | or | xor | movc | nop | halt => exact ⟨_, rfl, .of_kept (.refl s) rfl⟩
  | bz | bnz | bp | bnp | bn | bnn => exact ⟨_, rfl, s.branch_execFrame ..⟩
  | jump => exact ⟨_, rfl, s.transfer_execFrame ..⟩
  | div =>
    refine ⟨_, exec_div .., ?_⟩
    split
    · exact .of_kept (.refl s) rfl
    · exact ⟨.refl s, .inl (by simp [flagSetters, Instr.kind, Instr.record])⟩
  | jalr =>
    refine ⟨_, exec_jalr .., ?_⟩
    split <;> exact .of_kept (.refl s) rfl
  | load =>
    refine ⟨_, exec_load .., ?_⟩
    split <;> exact .of_kept (.refl s) rfl
  | loadp =>
    refine ⟨_, exec_loadp .., ?_⟩
    split <;> exact .of_kept (.refl s) rfl
  | store =>
    refine ⟨_, exec_store .., ?_⟩
    split
    · exact .of_kept (.refl s) rfl
    next stored =>
      obtain ⟨-, rfl⟩ := CoreState.memWrite_eq_some.mp stored
      exact .of_kept (.refl s) rfl
  | storep =>
    refine ⟨_, exec_storep .., ?_⟩
    split
    · exact .of_kept (.refl s) rfl
    next stored =>
      obtain ⟨-, rfl⟩ := CoreState.memWrite_eq_some.mp stored
      exact .of_kept (.refl s) rfl

/-- A step of the sequential machine leaves the pipeline state alone. -/
theorem seqStep_sameRest (h : seqStep (s.onLayer l) = .next (t.onLayer l)) : SameRest s t := by
  rcases seqStep_cases s l with ⟨-, e⟩ | ⟨-, -, e⟩ | ⟨_, i, -, -, -, e⟩ | ⟨_, -, -, -, e⟩ <;> rw [h] at e
  · obtain rfl : t = s := by simpa using e
    exact .refl t
  · obtain rfl : t = s := by simpa using e
    exact .refl t
  · obtain ⟨u, answer, frame⟩ := exec_execFrame i s l
    obtain rfl : t = u := by simpa using e.trans answer
    exact frame.rest
  · obtain rfl : t = s.raise .invalidOpcode s.pc 0 := by simpa using e
    exact .refl s

theorem CoreState.ScoreboardInv.of_sameRest (h : s.ScoreboardInv) (rest : SameRest s t) : t.ScoreboardInv := by
  obtain ⟨-, -, -, lEX, lMEM, lWB, -, busy, -⟩ := rest
  exact h.of_kept lEX lMEM lWB busy

theorem CoreState.scoreboardInv_resetWith (c : Config) (p : List (Entry c.xlen)) :
    (CoreState.resetWith c p).ScoreboardInv := by
  have free (r : Reg) : (CoreState.resetWith c p).busyBit r = false := by
    simp [CoreState.busyBit, CoreState.resetWith]
  cases strategy : c.strategy with
  | stallOnly =>
    rw [CoreState.scoreboardInv_stallOnly strategy]
    intro r
    have none : (CoreState.resetWith c p).writersInFlight r = 0 := rfl
    simp [free, none]
  | forwarding => exact (CoreState.scoreboardInv_forwarding strategy).mpr free

/-! The flags in Execute (rules R25, R26). -/

theorem exKind_flags_of_not_setter {l : Latch c.xlen} (h : l.kind ∉ flagSetters) :
    (exKind l s).core.flags = s.flags := by
  unfold exKind
  cases k : l.kind with
  | add | sub | mul | div | addl | subl | cmp | cml => exact absurd (by rw [k]; decide) h
  | bz | bnz | bp | bnp | bn | bnn => exact exBranch_flags ..
  | jump => simp only [exJump]; split <;> rfl
  | jalr => simp only [exJalr]; split <;> rfl
  | and | or | xor | movc | load | loadp | store | storep | nop | halt | invalid => rfl

/-- A tick changes the flags in Execute only, so by the instruction that stood in `L_EX`. -/
theorem exStage_flags_of_not_setter (h : s.lEX.valid = true → s.lEX.kind ∉ flagSetters) :
    (exStage s).flags = s.flags := by
  rcases exStage_cases s with ⟨-, e⟩ | ⟨t, valid, raised, -, e⟩ | ⟨_, t, valid, passed, -, e⟩
  · rw [e]
  · have kept := exKind_flags_of_not_setter (s := s) (h valid)
    rwa [raised, ← e] at kept
  · have kept := exKind_flags_of_not_setter (s := s) (h valid)
    rw [passed] at kept
    rwa [e]

theorem tick_flags : (tick s).flags = s.flags ∨ (tick s).flags = (exStage (memStage (wbStage s))).flags := by
  rcases tick_cases s with ⟨-, e⟩ | ⟨-, -, e⟩ | ⟨-, -, -, e⟩ | ⟨-, -, -, -, e⟩ | ⟨-, -, -, -, e⟩ <;> simp [e]

end

/-- Settles O40: the pipeline keeps the scoreboard stage by stage, the sequential machine has nothing to do with it. -/
theorem scoreboardInvariant : Obligations.ScoreboardInvariant := by
  refine ⟨CoreState.scoreboardInv_resetWith, fun c l s t h answer => ?_⟩
  cases boot : s.bootProblem with
  | some r =>
    rw [step_refused (s := s.onLayer l) boot] at answer
    cases answer
  | none =>
    cases l with
    | pipeline =>
      rw [step_pipeline s boot] at answer
      obtain rfl : tick s = t := by simpa using answer
      exact CoreState.scoreboardInv_keptByStages.tick h
    | sequential =>
      rw [step_sequential s boot] at answer
      exact h.of_sameRest (seqStep_sameRest answer)

/-- Settles O12: on the sequential layer by the frame of each instruction, in a tick because Execute alone writes the
flags. -/
theorem onlyFlagSettersChangeFlags : Obligations.OnlyFlagSettersChangeFlags := by
  refine fun c s => ⟨fun l i t answer changed => ?_, fun changed => ?_⟩
  · obtain ⟨u, answer', frame⟩ := exec_execFrame i s l
    obtain rfl : t = u := by simpa using answer.symm.trans answer'
    exact frame.flags.resolve_right changed
  · by_contra notSetter
    have kept := exStage_flags_of_not_setter (s := memStage (wbStage s)) (by simpa [flagSetters] using notSetter)
    simp only [memStage_flags, wbStage_flags] at kept
    rcases tick_flags (s := s) with e | e
    · exact changed e
    · exact changed (e.trans kept)

end Sys2Proof.Machine
end

section
/-! SUPPORT. Arithmetic and comparison (spec 10_state.md rules R25, R26; 40_arithmetic_logic.md rules R90 to R94, R98,
R99, R101 to R103): the results as integers, the flags as signs, and the statements about both. -/

namespace Sys2Proof.Machine

section

variable {c : Config} {s : CoreState c}

/-! The flags as signs. -/

theorem Flags.ofResult_tells {n : Nat} (v : BitVec n) : (Flags.ofResult v).tells v.toInt := by
  simp [Flags.tells, Flags.ofResult]

theorem Flags.ofCompare_tells {n : Nat} (a b : BitVec n) : (Flags.ofCompare a b).tells (a.toInt - b.toInt) := by
  simp only [Flags.tells, Flags.ofCompare, decide_eq_true_eq]
  omega

/-- Flags are determined by the sign they tell. -/
theorem Flags.tells_unique {f g : Flags} {v : Int} (hf : f.tells v) (hg : g.tells v) : f = g := by
  obtain ⟨fz, fp, fn⟩ := hf
  obtain ⟨gz, gp, gn⟩ := hg
  have z : f.z = g.z := Bool.eq_iff_iff.mpr (fz.trans gz.symm)
  have p : f.p = g.p := Bool.eq_iff_iff.mpr (fp.trans gp.symm)
  have n : f.n = g.n := Bool.eq_iff_iff.mpr (fn.trans gn.symm)
  cases f
  cases g
  simp_all

/-- The exact difference of two values fits, or wrapping it turns its sign (rule R26). -/
theorem toInt_sub_cases {n : Nat} (a b : BitVec n) :
    (2 * (a.toInt - b.toInt) < -2 ^ n ∧ 0 < (a - b).toInt) ∨
      (2 ^ n ≤ 2 * (a.toInt - b.toInt) ∧ (a - b).toInt < 0) ∨
      (-2 ^ n ≤ 2 * (a.toInt - b.toInt) ∧ 2 * (a.toInt - b.toInt) < 2 ^ n ∧
        (a - b).toInt = a.toInt - b.toInt) := by
  have aLt := BitVec.two_mul_toInt_lt (x := a)
  have leA := BitVec.le_two_mul_toInt (x := a)
  have bLt := BitVec.two_mul_toInt_lt (x := b)
  have leB := BitVec.le_two_mul_toInt (x := b)
  have modulus : ((2 ^ n : Nat) : Int) = 2 ^ n := by simp
  rw [BitVec.toInt_sub]
  by_cases low : 2 * (a.toInt - b.toInt) < -2 ^ n
  · refine .inl ⟨low, ?_⟩
    rw [← Int.add_bmod_right, Int.bmod_eq_of_le_mul_two] <;> omega
  · by_cases high : 2 ^ n ≤ 2 * (a.toInt - b.toInt)
    · refine .inr (.inl ⟨high, ?_⟩)
      rw [← Int.sub_bmod_right, Int.bmod_eq_of_le_mul_two] <;> omega
    · refine .inr (.inr ⟨by omega, by omega, ?_⟩)
      rw [Int.bmod_eq_of_le_mul_two] <;> omega

/-- The flags of the wrapped difference are those of the comparison exactly where the difference fits. -/
theorem Flags.ofCompare_ne_ofResult {n : Nat} (a b : BitVec n) :
    Flags.ofCompare a b ≠ Flags.ofResult (a - b) ↔
      2 * (a.toInt - b.toInt) < -2 ^ n ∨ 2 ^ n ≤ 2 * (a.toInt - b.toInt) := by
  have compared := Flags.ofCompare_tells a b
  have wrapped := Flags.ofResult_tells (a - b)
  have modulus : (0 : Int) < 2 ^ n := by positivity
  rcases toInt_sub_cases a b with ⟨low, positive⟩ | ⟨high, negative⟩ | ⟨notLow, notHigh, exact⟩
  · refine iff_of_true (fun same => ?_) (.inl low)
    obtain ⟨-, -, below⟩ := same ▸ compared
    have := wrapped.2.2.mp (below.mpr (by omega))
    omega
  · refine iff_of_true (fun same => ?_) (.inr high)
    obtain ⟨-, above, -⟩ := same ▸ compared
    have := wrapped.2.1.mp (above.mpr (by omega))
    omega
  · refine iff_of_false (fun differ => differ ?_) (by omega)
    rw [exact] at wrapped
    exact Flags.tells_unique compared wrapped

/-! The results as integers. -/

theorem ofInt_sub (n : Nat) (i j : Int) : BitVec.ofInt n (i - j) = BitVec.ofInt n i - BitVec.ofInt n j := by
  rw [sub_eq_add_neg, BitVec.ofInt_add, BitVec.ofInt_neg, sub_eq_add_neg]

theorem aluAdd_eq_ofInt {n : Nat} (a b : BitVec n) : aluAdd a b = BitVec.ofInt n (a.toInt + b.toInt) := by
  simp [aluAdd, BitVec.ofInt_add]

theorem aluSub_eq_ofInt {n : Nat} (a b : BitVec n) : aluSub a b = BitVec.ofInt n (a.toInt - b.toInt) := by
  simp [aluSub, ofInt_sub]

theorem aluMul_eq_ofInt {n : Nat} (a b : BitVec n) : aluMul a b = BitVec.ofInt n (a.toInt * b.toInt) := by
  simp [aluMul, BitVec.ofInt_mul]

theorem aluAdd_immValue (a : c.Value) (imm : Int) :
    aluAdd a (immValue c imm) = BitVec.ofInt c.xlen (a.toInt + imm) := by
  simp [aluAdd, immValue, BitVec.ofInt_add]

theorem aluSub_immValue (a : c.Value) (imm : Int) :
    aluSub a (immValue c imm) = BitVec.ofInt c.xlen (a.toInt - imm) := by
  simp [aluSub, immValue, ofInt_sub]

/-- The quotient rounded toward zero leaves a remainder with the sign of the dividend. -/
theorem isQuotient_tdiv {a b : Int} (h : b ≠ 0) : IsQuotient a b (a.tdiv b) := by
  refine ⟨a.tmod b, (Int.mul_tdiv_add_tmod a b).symm, ?_, ?_⟩
  · rw [Int.natAbs_tmod]
    exact Nat.mod_lt _ (by omega)
  · rcases le_total 0 a with nonneg | nonpos
    · exact mul_nonneg (Int.tmod_nonneg b nonneg) nonneg
    · have := Int.tmod_nonneg b (Int.neg_nonneg_of_nonpos nonpos)
      rw [Int.neg_tmod] at this
      exact mul_nonneg_of_nonpos_of_nonpos (by omega) nonpos

/-! Execute. -/

/-- In Execute an arithmetic instruction raises, or it has a result and the flags of it. -/
theorem exKind_arithmetic {l : Latch c.xlen} (kind : l.kind = .add ∨ l.kind = .sub ∨ l.kind = .mul ∨ l.kind = .div ∨
    l.kind = .addl ∨ l.kind = .subl) :
    (∃ t, exKind l s = .raise t) ∨ ∃ r, exKind l s = exFlagged r l s := by
  unfold exKind
  cases k : l.kind with
  | add | sub | mul | addl | subl => exact .inr ⟨_, rfl⟩
  | div =>
    simp only [exDiv]
    split
    · exact .inl ⟨_, rfl⟩
    · exact .inr ⟨_, rfl⟩
  | _ => simp [k] at kind

/-! Completion. -/

theorem CoreState.finishFlagged_completes (s : CoreState c) (rd : Reg) (v : c.Value) :
    ResultWritten rd v s (s.finishFlagged rd v) ∧
      (s.finishFlagged rd v).flags.tells ((s.finishFlagged rd v).reg rd).toInt := by
  have written : (s.finishFlagged rd v).reg rd = v := CoreState.reg_setReg_self ..
  refine ⟨⟨written, fun r other => ?_, fun _ => rfl, .refl s, rfl, rfl, rfl, rfl⟩, ?_⟩
  · exact CoreState.reg_setReg_other _ v (by simpa using other)
  · rw [written]
    exact Flags.ofResult_tells v

theorem CoreState.finishCompare_completes (s : CoreState c) (a b : c.Value) :
    (s.finishCompare a b).flags.tells (a.toInt - b.toInt) ∧ SameRegsBut [] s (s.finishCompare a b) ∧
      SameCells s (s.finishCompare a b) ∧ SameRest s (s.finishCompare a b) ∧
      CompletedTo (nextPc s.pc) s (s.finishCompare a b) :=
  ⟨Flags.ofCompare_tells a b, fun _ _ => rfl, fun _ => rfl, .refl s, rfl, rfl, rfl, rfl⟩

end

/-- Settles O5: each of the five writes its integer result, narrowed, and the sign of what it wrote. -/
theorem arithmeticCompletes : Obligations.ArithmeticCompletes := by
  intro c l s rd rs1 rs2 imm
  rw [← aluAdd_eq_ofInt, ← aluSub_eq_ofInt, ← aluMul_eq_ofInt, ← aluAdd_immValue, ← aluSub_immValue]
  exact ⟨⟨_, exec_add .., s.finishFlagged_completes ..⟩, ⟨_, exec_sub .., s.finishFlagged_completes ..⟩,
    ⟨_, exec_mul .., s.finishFlagged_completes ..⟩, ⟨_, exec_addl .., s.finishFlagged_completes ..⟩,
    ⟨_, exec_subl .., s.finishFlagged_completes ..⟩⟩

/-- Settles O6: with a divisor other than 0 the quotient is written. -/
theorem divisionCompletes : Obligations.DivisionCompletes := by
  intro c l s rd rs1 rs2 divisor
  have nonzero : (s.reg rs2).toInt ≠ 0 := fun zero => divisor (BitVec.eq_of_toInt_eq (by simpa using zero))
  refine ⟨_, (s.reg rs1).toInt.tdiv (s.reg rs2).toInt, exec_div .., isQuotient_tdiv nonzero, ?_⟩
  rw [if_neg divisor]
  exact s.finishFlagged_completes rd _

/-- Settles O9: a comparison writes the flags and completes. -/
theorem comparesComplete : Obligations.ComparesComplete :=
  fun _ _ s _ _ _ => ⟨⟨_, exec_cmp .., s.finishCompare_completes ..⟩, ⟨_, exec_cml .., s.finishCompare_completes ..⟩⟩

/-- Settles O10: what an arithmetic instruction hands on it hands on with the flags of its result. -/
theorem setFlagsRule : Obligations.SetFlagsRule := by
  refine fun c => ⟨fun v => ⟨Flags.ofResult_tells v, Flags.exactlyOne_ofResult v⟩, fun l l' s t kind answer => ?_⟩
  rcases exKind_arithmetic (s := s) kind with ⟨u, raised⟩ | ⟨r, flagged⟩
  · rw [raised] at answer
    cases answer
  · rw [flagged] at answer
    cases answer
    rfl

/-- Settles O11: the wrapped difference tells the same sign exactly where the exact one fits. -/
theorem compareFlagsRule : Obligations.CompareFlagsRule := by
  refine fun c => ⟨fun a b => ⟨Flags.ofCompare_tells a b, Flags.exactlyOne_ofCompare a b,
    Flags.ofCompare_ne_ofResult a b⟩, fun l s => ⟨fun kind => ?_, fun kind => ?_⟩⟩
  all_goals
    unfold exKind
    rw [kind]
    exact ⟨_, rfl, rfl⟩

end Sys2Proof.Machine
end

section
/-! SUPPORT. What one tick does to the registers, the counters and Decode (spec 10_state.md rules R21, R30, R33;
43_pipeline_stages.md rules R143, R146, R147), and the reset state (70_reset_and_hazards.md rule R240). -/

namespace Sys2Proof.Machine

section

variable {c : Config} {s : CoreState c}

/-! The fields of a running tick that Writeback and the count of the cycle alone write. -/

/-- A running tick counts one cycle, and leaves the registers and the count of instructions as Writeback left them. -/
theorem tick_counts (running : s.stopped = false) :
    (tick s).cycles = s.cycles + 1 ∧ (tick s).retired = (wbStage s).retired ∧ (tick s).x = (wbStage s).x := by
  rcases tick_cases s with ⟨stopped, -⟩ | ⟨-, -, e⟩ | ⟨-, -, -, e⟩ | ⟨-, -, -, -, e⟩ | ⟨-, -, -, -, e⟩
  · simp [running] at stopped
  all_goals simp [e]

/-- What Writeback writes, destination by destination: the base of a post-increment form holds the result where it is
`rd` too (rule R143). -/
theorem reg_wbStage_eq (r : Reg) :
    (wbStage s).reg r =
      if s.lWB.valid = true ∧ writesRd s.lWB.kind = true ∧ s.lWB.rd = r then s.lWB.result
      else if s.lWB.valid = true ∧ base? s.lWB.toRecord = some r then s.lWB.baseNew
      else s.reg r := by
  have dest : r ∈ dests s.lWB.toRecord ↔
      (writesRd s.lWB.kind = true ∧ s.lWB.rd = r) ∨ base? s.lWB.toRecord = some r := by
    cases writes : writesRd s.lWB.kind <;> simp [dests, writes, eq_comm]
  rw [reg_wbStage]
  by_cases valid : s.lWB.valid = true
  · by_cases rd : writesRd s.lWB.kind = true ∧ s.lWB.rd = r
    · simp [Latch.produces, Latch.producedValue, valid, dest, rd]
    · by_cases base : base? s.lWB.toRecord = some r <;>
        simp [Latch.produces, Latch.producedValue, valid, dest, rd, base]
  · simp [Latch.produces, valid]

/-! A stalled tick. -/

theorem CoreState.not_stopped (running : s.stopped = false) : s.halted = false ∧ s.fault.kind = .none := by
  simpa [CoreState.stopped] using running

/-- A tick after which the machine still runs was evaluated whole. -/
theorem tick_of_running (before : s.stopped = false) (after : (tick s).stopped = false) :
    (exStage (memStage (wbStage s))).fault.kind = .none ∧
      tick s = (fetchStage (drfStage (exStage (memStage (wbStage s))))).countCycle := by
  obtain ⟨notHalted, noFault⟩ := CoreState.not_stopped after
  rcases tick_cases s with ⟨stopped, -⟩ | ⟨-, halted, e⟩ | ⟨-, -, fault, e⟩ | ⟨-, -, -, fault, e⟩ | ⟨-, -, -, ok, e⟩
  · simp [before] at stopped
  · simp [e, halted] at notHalted
  · exact absurd (by simpa [e] using noFault) fault
  · exact absurd (by simpa [e] using noFault) fault
  · exact ⟨ok, e⟩

/-- Decode stalls with its instruction kept, and nothing goes to Execute. -/
theorem drfStage_of_stall (h : (drfStage s).stall = true) :
    s.lD.valid = true ∧ (drfStage s).lD.valid = true ∧ (drfStage s).lD.toRecord = s.lD.toRecord ∧
      (drfStage s).lD.pc = s.lD.pc ∧ (drfStage s).lEX = s.lEX := by
  rcases drfStage_cases s with ⟨-, e⟩ | ⟨valid, ⟨-, e⟩ | ⟨-, e⟩⟩
  · simp [e] at h
  · simp [e, valid]
  · simp [e] at h

theorem fetchStage_of_stall (h : s.stall = true) : (fetchStage s).lD = s.lD ∧ (fetchStage s).pc = s.pc := by
  rcases fetchStage_front s with kept | ⟨_, -, noStall, -⟩
  · exact kept
  · simp [h] at noStall

/-! The reset state. -/

@[simp] theorem CoreState.resetWith_btb (c : Config) (p : List (Entry c.xlen)) (i : Slot) :
    (CoreState.resetWith c p).btb[i.val].valid = false := by
  simp [CoreState.resetWith, BtbEntry.empty]

/-- The latches of the reset state are empty and its table is, so every clause on them holds. -/
theorem CoreState.btbInv_resetWith (c : Config) (p : List (Entry c.xlen)) : (CoreState.resetWith c p).BtbInv where
  unique i _ valid := by simp at valid
  filled i _ _ valid := by simp at valid
  missD valid := by cases valid
  hitD valid := by cases valid
  slotEX valid := by cases valid

theorem CoreState.pipelineInv_resetWith (c : Config) (p : List (Entry c.xlen)) :
    (CoreState.resetWith c p).PipelineInv := by
  refine CoreState.pipelineInv_iff.mpr ⟨⟨⟨fun valid => ?_, fun valid => ?_, fun i valid => ?_⟩, ?_⟩, ?_,
    CoreState.scoreboardInv_resetWith c p, fun valid => ?_⟩
  · cases valid
  · cases valid
  · simp at valid
  · exact CoreState.NoHaltPast.haltInv ⟨rfl, rfl, rfl, rfl, rfl⟩
  · exact ⟨rfl, fun disabled => by cases disabled⟩
  · cases valid

/-- With empty latches there is nothing to drain. -/
theorem CoreState.drained_eq_self (lMEM : s.lMEM.valid = false) (lWB : s.lWB.valid = false) : s.drained = s := by
  simp [CoreState.drained, wbStage_eq_self lWB, memStage_eq_self lMEM]

/-- With empty latches and no fault the core stands for itself. -/
theorem CoreState.seqView_eq_self (fault : s.fault.kind = .none) (lD : s.lD.valid = false) (lEX : s.lEX.valid = false)
    (lMEM : s.lMEM.valid = false) (lWB : s.lWB.valid = false) : s.seqView = s := by
  simp [CoreState.seqView, CoreState.nextToExecute, CoreState.drained_eq_self lMEM lWB, fault, lD, lEX]

end

/-- Settles O42: a running tick leaves the register file as Writeback left it. -/
theorem onlyWritebackWritesRegisters : Obligations.OnlyWritebackWritesRegisters := by
  intro c s r running
  obtain ⟨-, -, x⟩ := tick_counts running
  rw [CoreState.reg_congr x, reg_wbStage_eq]

/-- Settles O46: Writeback counts the instruction, the end of the tick the cycle. -/
theorem tickCounts : Obligations.TickCounts := by
  intro c s running
  obtain ⟨cycles, retired, -⟩ := tick_counts running
  rw [cycles, retired, wbStage_retired]
  split <;> simp [BitVec.toNat_add]

/-- Settles O45: an instruction that stalls stood in Decode before the tick, Fetch keeps it there, and `L_EX` was
emptied by Execute. -/
theorem stallHoldsDecode : Obligations.StallHoldsDecode := by
  intro c s before after stall
  obtain ⟨noFault, e⟩ := tick_of_running before after
  rw [e] at stall ⊢
  simp only [CoreState.countCycle_stall, fetchStage_stall] at stall
  obtain ⟨valid, valid', record, pc, lEX⟩ := drfStage_of_stall stall
  obtain ⟨fetchD, fetchPc⟩ := fetchStage_of_stall stall
  obtain ⟨exD, exPc⟩ := exStage_lD _ valid
  simp only [memStage_lD, wbStage_lD, memStage_pc, wbStage_pc] at exD exPc
  simp only [CoreState.countCycle_pc, CoreState.countCycle_lD, CoreState.countCycle_lEX, fetchD, fetchPc, drfStage_pc,
    exPc, valid', record, pc, fetchStage_lEX, lEX, exD, exStage_lEX_valid noFault, and_self, and_true, true_and]
  exact exD ▸ valid

/-- Settles O35: the reset state has no valid latch and no valid entry. -/
theorem resetHasInvariants : Obligations.ResetHasInvariants := by
  refine fun c p => ⟨rfl, by simp [Flags.exclusive, CoreState.resetWith], CoreState.btbInv_resetWith c p,
    CoreState.scoreboardInv_resetWith c p, CoreState.pipelineInv_resetWith c p, ?_⟩
  exact congrArg CoreState.arch (CoreState.seqView_eq_self rfl rfl rfl rfl rfl)

end Sys2Proof.Machine
end

section
/-! SUPPORT. The data memory (spec 20_memory.md rules R53, R55, R56, R61; 60_exceptions.md rule R224): which accesses
fail and what a failing one leaves, and what the Memory stage writes and reads. -/

namespace Sys2Proof.Machine

section

variable {c : Config} {s : CoreState c} {l : Layer}

/-! The bounds test. -/

/-- A value is negative as a signed number exactly where it lies in the upper half of the address space, and a memory
of at most half the address space ends before it. -/
theorem outside_signed_iff_unsigned {n m : Nat} (half : 2 * m ≤ 2 ^ n) (a : BitVec n) :
    (a.toInt < 0 ∨ (m : Int) ≤ a.toInt) ↔ m ≤ a.toNat := by
  have below := a.isLt
  rw [BitVec.toInt_eq_toNat_cond]
  split <;> omega

/-! The fault of a failing access. -/

theorem CoreState.raise_faultRecorded (s : CoreState c) (k : FaultKind) (p info : c.Value) :
    FaultRecorded k p info s (s.raise k p info) :=
  ⟨rfl, rfl, rfl, rfl, rfl, rfl, rfl, .refl s⟩

/-- An instruction that answers with the core as `raiseMemory` leaves it records the fault and nothing else. -/
theorem exec_memoryFault {i : Instr} {ea : c.Value}
    (answer : exec i (s.onLayer l) = .next ((s.raiseMemory ea).onLayer l)) :
    ∃ t : CoreState c, exec i (s.onLayer l) = .next (t.onLayer l) ∧ FaultRecorded .memoryFault s.pc ea s t :=
  ⟨_, answer, s.raise_faultRecorded ..⟩

/-- A load or store outside the memory raises in Memory, and hands nothing on. -/
theorem memStage_of_outside (valid : s.lMEM.valid = true)
    (access : isLoad s.lMEM.kind = true ∨ isStore s.lMEM.kind = true) (outside : c.dmemSize ≤ s.lMEM.memAddr.toNat) :
    memStage s = s.raise .memoryFault s.lMEM.pc s.lMEM.memAddr := by
  rcases memStage_cases s with ⟨invalid, -⟩ | ⟨_, -, -, read, -⟩ | ⟨-, -, -, inside, -⟩ | ⟨-, load, store, -⟩ |
    ⟨-, -, -, e⟩
  · simp [valid] at invalid
  · exact absurd (CoreState.memRead_eq_some.mp read).1 (by omega)
  · omega
  · simp [load, store] at access
  · exact e

/-- A tick in which Memory raises ends there. -/
theorem tick_of_memoryFault (running : s.stopped = false) (notHalted : (wbStage s).halted = false)
    (fault : (memStage (wbStage s)).fault.kind ≠ .none) : tick s = (memStage (wbStage s)).countCycle := by
  rcases tick_cases s with ⟨stopped, -⟩ | ⟨-, halted, -⟩ | ⟨-, -, -, e⟩ | ⟨-, -, ok, -⟩ | ⟨-, -, ok, -⟩
  · simp [running] at stopped
  · simp [notHalted] at halted
  · exact e
  · exact absurd ok fault
  · exact absurd ok fault

/-! What Memory writes. -/

theorem isStore_of_isLoad {k : Kind} (load : isLoad k = true) : isStore k = false := by
  cases k with
  | load | loadp => rfl
  | _ => cases load

/-- Memory leaves the cells as they are, or a store inside the memory stands in `L_MEM` and its cell is written. -/
theorem memStage_dmem_cases (s : CoreState c) :
    (memStage s).dmem = s.dmem ∨
      (s.lMEM.valid = true ∧ isStore s.lMEM.kind = true ∧ s.lMEM.memAddr.toNat < c.dmemSize ∧
        (memStage s).dmem = writeCell s.dmem s.lMEM.memAddr.toNat s.lMEM.rs1Value) := by
  rcases memStage_cases s with ⟨-, e⟩ | ⟨_, -, -, -, e⟩ | ⟨valid, -, store, inside, e⟩ | ⟨-, -, -, e⟩ | ⟨-, -, -, e⟩
  · exact .inl (by simp [e])
  · exact .inl (by simp [e])
  · exact .inr ⟨valid, store, inside, by simp [e]⟩
  · exact .inl (by simp [e])
  · exact .inl (by simp [e])

/-- A tick's cells are the old ones or those Memory left. -/
theorem tick_dmem (s : CoreState c) :
    (tick s).dmem = s.dmem ∨ (tick s).dmem = (memStage (wbStage s)).dmem := by
  rcases tick_cases s with ⟨-, e⟩ | ⟨-, -, e⟩ | ⟨-, -, -, e⟩ | ⟨-, -, -, -, e⟩ | ⟨-, -, -, -, e⟩ <;> simp [e]

/-! A sequence of latches through Memory. -/

/-- Memory keeps the canonical form. -/
theorem CoreState.memoryWf_accessBy (k : Latch c.xlen) (canonical : memoryWf s.dmem = true) :
    memoryWf (s.accessBy k).dmem = true := by
  rcases memStage_dmem_cases { s with lMEM := k } with e | ⟨-, -, -, e⟩ <;> rw [CoreState.accessBy, e]
  · exact canonical
  · exact memoryWf_writeCell _ _ _ canonical

/-- A cell after Memory has processed a latch whose access does not fail: what the latch stores there, or what it held.
-/
theorem CoreState.readCell_accessBy {k : Latch c.xlen} (inside : k.accesses → k.memAddr.toNat < c.dmemSize)
    (canonical : memoryWf s.dmem = true) (a : c.Value) :
    readCell (s.accessBy k).dmem a.toNat = if k.storesTo a then k.rs1Value else readCell s.dmem a.toNat := by
  rw [CoreState.accessBy]
  rcases memStage_cases { s with lMEM := k } with ⟨valid, e⟩ | ⟨_, -, load, -, e⟩ | ⟨valid, -, store, -, e⟩ |
    ⟨-, -, store, e⟩ | ⟨valid, access, outside, -⟩
  · simp only at valid
    simp [e, Latch.storesTo, valid]
  · simp only at load
    simp [e, Latch.storesTo, isStore_of_isLoad load]
  · simp only at valid store
    simp [e, Latch.storesTo, valid, store, readCell_writeCell _ _ _ _ canonical, BitVec.toNat_inj, eq_comm]
  · simp only at store
    simp [e, Latch.storesTo, store]
  · exact absurd (inside ⟨valid, access⟩) (by simpa using outside)

/-- The value of the youngest store to the cell `a` among latches listed oldest first, or the reset value. -/
def youngestStored (older : List (Latch c.xlen)) (a : c.Value) : c.Value :=
  ((older.reverse.find? fun k => k.storesTo a).map fun k => k.rs1Value).getD 0

theorem youngestStored_concat (older : List (Latch c.xlen)) (k : Latch c.xlen) (a : c.Value) :
    youngestStored (older ++ [k]) a = if k.storesTo a then k.rs1Value else youngestStored older a := by
  by_cases stores : k.storesTo a = true <;> simp [youngestStored, stores]

/-- From the reset memory, every cell holds what the youngest store to it stored (rule R61). -/
theorem CoreState.readCell_accesses (reset : s.dmem = []) (older : List (Latch c.xlen))
    (inside : ∀ k ∈ older, k.accesses → k.memAddr.toNat < c.dmemSize) :
    memoryWf (older.foldl CoreState.accessBy s).dmem = true ∧
      ∀ a : c.Value, readCell (older.foldl CoreState.accessBy s).dmem a.toNat = youngestStored older a := by
  induction older using List.reverseRecOn with
  | nil => exact ⟨by simp [reset, memoryWf], fun a => by simp [reset, readCell, unlistedCell, youngestStored]⟩
  | append_singleton older k ih =>
    obtain ⟨canonical, cells⟩ := ih fun j mem => inside j (by simp [mem])
    rw [List.foldl_concat]
    refine ⟨CoreState.memoryWf_accessBy k canonical, fun a => ?_⟩
    rw [CoreState.readCell_accessBy (inside k (by simp)) canonical, cells, youngestStored_concat]

/-- A load inside the memory is handed on with the cell it reads. -/
theorem CoreState.accessBy_load {k : Latch c.xlen} (s : CoreState c) (valid : k.valid = true)
    (load : isLoad k.kind = true) (inside : k.memAddr.toNat < c.dmemSize) :
    (s.accessBy k).lWB = { k with result := readCell s.dmem k.memAddr.toNat, valid := true } := by
  have read : { s with lMEM := k }.memRead k.memAddr = some (readCell s.dmem k.memAddr.toNat) :=
    CoreState.memRead_eq_some.mpr ⟨inside, rfl⟩
  simp [CoreState.accessBy, memStage, valid, load, read]

end

/-- Settles O18: the failing accesses are those of the unsigned test. -/
theorem boundsCheckSignedUnsigned : Obligations.BoundsCheckSignedUnsigned := by
  intro c s a v half
  rw [outside_signed_iff_unsigned half, CoreState.memRead_eq_none, CoreState.memWrite_eq_none]
  exact ⟨.rfl, .rfl, .rfl⟩

/-- Settles O19: the load reads its cell, which holds what the youngest store to it stored. -/
theorem loadReturnsYoungestStore : Obligations.LoadReturnsYoungestStore := by
  intro c s older l reset inside valid load loadInside
  obtain ⟨-, cells⟩ := CoreState.readCell_accesses reset older inside
  simp only [CoreState.accessBy_load _ valid load loadInside, cells, youngestStored, and_self]

/-- Settles O20: the cells change in Memory only, where Writeback has left `L_MEM` and the cells as they were. -/
theorem onlyStoresWriteMemory : Obligations.OnlyStoresWriteMemory := by
  intro c s changed
  have e := (tick_dmem s).resolve_left changed
  have stored := memStage_dmem_cases (wbStage s)
  simp only [← e, wbStage_dmem, wbStage_lMEM] at stored
  exact stored.resolve_left changed

/-- Settles O17: each of the four answers a failing access with the fault alone. -/
theorem accessOutsideMemoryFaults : Obligations.AccessOutsideMemoryFaults := by
  intro c l s r q imm ea outside
  have read : s.memRead ea = none := CoreState.memRead_eq_none.mpr outside
  have write (v : c.Value) : s.memWrite ea v = none := CoreState.memWrite_eq_none.mpr outside
  refine ⟨exec_memoryFault ?_, exec_memoryFault ?_, exec_memoryFault ?_, exec_memoryFault ?_⟩
  · rw [exec_load, read]
  · rw [exec_loadp, read]
  · rw [exec_store, write]
  · rw [exec_storep, write]

/-- Settles O49: the tick ends in Memory, with the fault recorded on the state Writeback left. -/
theorem olderMemoryFaultWins : Obligations.OlderMemoryFaultWins := by
  intro c s running notHalted valid access outside
  have raised : memStage (wbStage s) = (wbStage s).raise .memoryFault s.lMEM.pc s.lMEM.memAddr := by
    simpa [valid, access, outside] using memStage_of_outside (s := wbStage s)
  rw [tick_of_memoryFault running notHalted (by simp [raised]), raised]
  simp

end Sys2Proof.Machine
end

section
/-! SUPPORT. The instruction store (spec 20_memory.md rules R50 to R52; 43_pipeline_stages.md rules R147, R164): the
instruction that a step of the sequential machine runs, the placing of one, and Fetch where there is none. -/

namespace Sys2Proof.Machine

section

variable {c : Config} {s : CoreState c}

/-! A step of the sequential machine. -/

/-- The immediate field of a core that may be started is no wider than a register. -/
theorem CoreState.immBits_le_xlen (boot : s.bootProblem = none) : c.immBits ≤ c.xlen := by
  obtain ⟨-, wf, -⟩ := s.bootProblem_eq_none.mp boot
  simp only [Config.wf, Bool.and_eq_true, decide_eq_true_eq] at wf
  exact wf.2

/-- A running sequential machine runs the instruction of the entry at `pc`. -/
theorem step_runs {e : Entry c.xlen} {i : Instr} (boot : s.bootProblem = none) (running : s.stopped = false)
    (entry : s.entryAt s.pc = some e) (instr : (e.toRecord c.immBits).instr? = some i) :
    step (s.onLayer .sequential) = exec i (s.onLayer .sequential) := by
  rw [step_sequential s boot]
  rcases seqStep_cases s .sequential with ⟨stopped, -⟩ | ⟨-, noEntry, -⟩ | ⟨d, j, -, entry', instr', answer⟩ |
    ⟨d, -, entry', noInstr, -⟩
  · simp [running] at stopped
  · simp [entry] at noEntry
  · obtain rfl : e = d := by simpa [entry] using entry'
    obtain rfl : i = j := by simpa [instr] using instr'
    exact answer
  · obtain rfl : e = d := by simpa [entry] using entry'
    simp [instr] at noInstr

theorem step_runs_word {w : Word} {i : Instr} (boot : s.bootProblem = none) (running : s.stopped = false)
    (entry : s.entryAt s.pc = some (.word w)) (decoded : decode c.immBits w = .ok i) :
    step (s.onLayer .sequential) = exec i (s.onLayer .sequential) :=
  step_runs boot running entry (Entry.instr?_of_decode (CoreState.immBits_le_xlen boot) decoded)

/-! Which addresses hold an entry. -/

/-- An address is fetchable exactly where it is in the program and a multiple of 4 (rule R52). -/
theorem CoreState.fetchable_iff {a : c.Value} :
    s.fetchable a = true ↔
      c.codeBase ≤ a.toNat ∧ a.toNat < c.codeBase + 4 * s.imem.length ∧ a.toNat % 4 = 0 := by
  simp [CoreState.fetchable, aligned, and_assoc]

theorem CoreState.entryIndex_lt {a : c.Value} (fetchable : s.fetchable a = true) : entryIndex a < s.imem.length := by
  obtain ⟨above, below, -⟩ := CoreState.fetchable_iff.mp fetchable
  unfold entryIndex
  omega

/-- The entry at `CODE_BASE` of a program that fits is its first one. -/
theorem CoreState.entryAt_entryPoint {e : Entry c.xlen} {p : List (Entry c.xlen)} (wf : c.wf = true)
    (fits : c.codeBase + 4 ≤ 2 ^ c.xlen) (program : s.imem = e :: p) : s.entryAt c.entryPoint = some e := by
  have base : c.entryPoint.toNat = c.codeBase := by
    rw [Config.entryPoint, BitVec.toNat_ofNat, Nat.mod_eq_of_lt (by omega)]
  have multiple : c.codeBase % 4 = 0 := by
    simp only [Config.wf, Bool.and_eq_true, decide_eq_true_eq] at wf
    exact wf.1.1
  have fetchable : s.fetchable c.entryPoint = true := by
    rw [CoreState.fetchable_iff, base, program, List.length_cons]
    omega
  simp [CoreState.entryAt, fetchable, entryIndex, base, program]

/-! The placing of an instruction. -/

/-- A fetchable address whose entry was replaced holds the new entry. -/
theorem CoreState.entryAt_of_set {t : CoreState c} {a : c.Value} {e : Entry c.xlen} (fetchable : s.fetchable a = true)
    (program : t.imem = s.imem.set (entryIndex a) e) : t.entryAt a = some e := by
  have index := CoreState.entryIndex_lt fetchable
  have fetchable' : t.fetchable a = true := by
    rw [CoreState.fetchable_iff] at fetchable ⊢
    rwa [program, List.length_set]
  simp [CoreState.entryAt, fetchable', program, index]

theorem CoreState.bootProblem_of_fits (wf : c.wf = true) (nonempty : 0 < s.imem.length)
    (fits : c.codeBase + 4 * s.imem.length ≤ 2 ^ c.xlen) : s.bootProblem = none :=
  s.bootProblem_eq_none.mpr ⟨List.ne_nil_of_length_pos nonempty, wf, fits⟩

/-- Whichever of its two placements applies, `withFetchWord` leaves a sequential machine that may be started, is not
stopped, and has the word at `pc`. -/
theorem State.withFetchWord_spec (s : State) (nbits w : Nat) (wf : s.config.wf = true)
    (fits : s.config.codeBase + 4 * max 1 s.core.imem.length ≤ 2 ^ s.config.xlen) :
    ∃ t : CoreState s.config, s.withFetchWord nbits w = t.onLayer .sequential ∧ t.bootProblem = none ∧
      t.stopped = false ∧ t.entryAt t.pc = some (.word (BitVec.ofNat 32 (w % 2 ^ nbits))) := by
  unfold State.withFetchWord
  split
  next fetchable =>
    have index := CoreState.entryIndex_lt fetchable
    refine ⟨_, rfl, CoreState.bootProblem_of_fits wf ?_ ?_, rfl, CoreState.entryAt_of_set fetchable rfl⟩ <;>
      simp only [List.length_set] <;> omega
  next =>
    refine ⟨_, rfl, CoreState.bootProblem_of_fits wf ?_ ?_, rfl, CoreState.entryAt_entryPoint wf (by omega) rfl⟩ <;>
      simp only [List.length_singleton] <;> omega

/-- A row of the opcode table is read with the default `IMM_BITS`. -/
theorem decodeTableWord_eq_some {nbits w : Nat} {i : Instr} :
    decodeTableWord nbits w = some i ↔ decode 16 (BitVec.ofNat 32 (w % 2 ^ nbits)) = .ok i := by
  change (decode 16 _).toOption = some i ↔ _
  cases decode 16 (BitVec.ofNat 32 (w % 2 ^ nbits)) <;> simp [Except.toOption]

/-! Fetch, and the tick, where there is no entry. -/

theorem CoreState.clearBubble_eq_self (h : s.redirectPending = false) : s.clearBubble = s := by
  rw [CoreState.clearBubble, ← h]

/-- Without an entry at `pc` Fetch consumes a pending bubble and idles. -/
theorem fetchStage_of_no_entry (noEntry : s.entryAt s.pc = none) : fetchStage s = s.clearBubble.fetchIdle := by
  rcases fetchStage_cases s with ⟨-, e⟩ | ⟨noBubble, -, e⟩ | ⟨_, -, -, entry, -⟩ | ⟨_, -, -, entry, -⟩
  · exact e
  · rw [e, CoreState.clearBubble_eq_self noBubble]
  · simp [noEntry] at entry
  · simp [noEntry] at entry

theorem exStage_eq_self (h : s.lEX.valid = false) : exStage s = s := by
  unfold exStage
  simp [h]

theorem drfStage_of_invalid (h : s.lD.valid = false) : drfStage s = s.setStall false := by
  unfold drfStage
  simp [h]

/-- A running tick with nothing in Execute, Memory and Writeback is Decode and Fetch. -/
theorem tick_of_drained (running : s.stopped = false) (lEX : s.lEX.valid = false) (lMEM : s.lMEM.valid = false)
    (lWB : s.lWB.valid = false) : tick s = (fetchStage (drfStage s)).countCycle := by
  obtain ⟨notHalted, noFault⟩ := CoreState.not_stopped running
  simpa [wbStage_eq_self lWB, memStage_eq_self lMEM, exStage_eq_self lEX, running, notHalted, noFault]
    using tick_cases s

end

/-- Settles O25: a word that decodes and a record are both entries of the instruction. -/
theorem stepRunsDecodedInstruction : Obligations.StepRunsDecodedInstruction :=
  fun _ _ _ boot running =>
    ⟨fun _ entry decoded => step_runs_word boot running entry decoded,
      fun _ entry instr => step_runs boot running entry instr⟩

/-- Settles O26: the placed word is at `pc` of a sequential machine that may run. -/
theorem placedInstructionRuns : Obligations.PlacedInstructionRuns := by
  intro s nbits w i wf fits
  obtain ⟨t, placed, boot, running, entry⟩ := s.withFetchWord_spec nbits w wf fits
  have runs (decoded : decode s.config.immBits (BitVec.ofNat 32 (w % 2 ^ nbits)) = .ok i) :
      step (s.withFetchWord nbits w) = exec i (s.withFetchWord nbits w) := by
    rw [placed]
    exact step_runs_word boot running entry decoded
  refine ⟨runs, fun standard decoded => runs ?_⟩
  rw [standard]
  exact decodeTableWord_eq_some.mp decoded

/-- Settles O50: an entry is found exactly at a fetchable address. -/
theorem unfetchableFetchesNothing : Obligations.UnfetchableFetchesNothing :=
  fun _ s => ⟨by rw [s.entryAt_isSome, CoreState.fetchable_iff], fetchStage_of_no_entry⟩

/-- Settles O51: Decode clears `stall`, Fetch idles, and the cycle is counted. -/
theorem drainedPipelineIdles : Obligations.DrainedPipelineIdles := by
  intro c s running lD lEX lMEM lWB noBubble noEntry
  rw [tick_of_drained running lEX lMEM lWB, drfStage_of_invalid lD,
    fetchStage_of_no_entry (s := s.setStall false) noEntry,
    CoreState.clearBubble_eq_self (s := s.setStall false) noBubble]
  rfl

end Sys2Proof.Machine
end

section
/-! SUPPORT. Decoding and encoding (spec 30_encoding.md rules R70 to R77, R80). A word is seen as four fields: an
opcode, two registers and the low half. The canonical word of a decoded record is the word with the unused bits cleared,
and the record decoded from a canonical word is the record with the unused fields cleared. -/

namespace Sys2Proof

section

variable {b n : Nat} {i : Instr} {w : Word}

/-! A word as four fields. -/

/-- The word of an opcode, the two upper register fields and the low half. -/
def packWord (op : BitVec 6) (fa fb : BitVec 5) (low : BitVec 16) : Word := op ++ fa ++ fb ++ low

section

variable (op op' : BitVec 6) (fa fa' fb fb' fc : BitVec 5) (low low' : BitVec 16)

@[simp] theorem fieldA_packWord : fieldA (packWord op fa fb low) = regOfBits fa := by
  simp only [fieldA, packWord, BitVec.extractLsb'_append_eq_ite]
  simp

@[simp] theorem fieldB_packWord : fieldB (packWord op fa fb low) = regOfBits fb := by
  simp only [fieldB, packWord, BitVec.extractLsb'_append_eq_ite]
  simp

@[simp] theorem fieldC_packWord (rest : BitVec 11) : fieldC (packWord op fa fb (fc ++ rest)) = regOfBits fc := by
  simp only [fieldC, packWord, BitVec.extractLsb'_append_eq_ite]
  simp

theorem fieldImm_packWord (hb : b ≤ 16) (imm : BitVec b) :
    fieldImm b (packWord op fa fb (imm.setWidth 16)) = imm := by
  rw [fieldImm, packWord, BitVec.extractLsb'_append_eq_of_add_le (by omega)]
  apply BitVec.eq_of_getLsbD_eq
  intro k hk
  simp [hk, show k < 16 by omega]

theorem packWord_and :
    packWord op fa fb low &&& packWord op' fa' fb' low' =
      packWord (op &&& op') (fa &&& fa') (fb &&& fb') (low &&& low') := by
  unfold packWord
  rw [BitVec.and_append, BitVec.and_append, BitVec.and_append]

end

/-- A word is the word of its fields (rule R71). -/
theorem packWord_fields (w : Word) :
    packWord (fieldOp w) (w.extractLsb' 21 5) (w.extractLsb' 16 5) (w.extractLsb' 0 16) = w := by
  simp only [packWord, fieldOp, BitVec.extractLsb'_append_extractLsb'_eq_extractLsb']
  simp

@[simp] theorem bitsOfReg_fieldA (w : Word) : bitsOfReg (fieldA w) = w.extractLsb' 21 5 := bitsOfReg_regOfBits _

@[simp] theorem bitsOfReg_fieldB (w : Word) : bitsOfReg (fieldB w) = w.extractLsb' 16 5 := bitsOfReg_regOfBits _

@[simp] theorem bitsOfReg_fieldC (w : Word) : bitsOfReg (fieldC w) = w.extractLsb' 11 5 := bitsOfReg_regOfBits _

/-- The low half under a mask that keeps register field C. -/
theorem low_and_fieldC (w : Word) :
    w.extractLsb' 0 16 &&& (BitVec.allOnes 5 ++ 0#11) = bitsOfReg (fieldC w) ++ 0#11 := by
  have split : w.extractLsb' 0 16 = w.extractLsb' 11 5 ++ w.extractLsb' 0 11 := by
    rw [BitVec.extractLsb'_append_extractLsb'_eq_extractLsb' (by rfl)]
  rw [split, BitVec.and_append, BitVec.and_allOnes, BitVec.and_zero, bitsOfReg_fieldC]

/-- The low half under a mask that keeps the immediate field. -/
theorem low_and_fieldImm (b : Nat) (w : Word) :
    w.extractLsb' 0 16 &&& (BitVec.allOnes b).setWidth 16 = (fieldImm b w).setWidth 16 := by
  apply BitVec.eq_of_getLsbD_eq
  intro k hk
  simp [fieldImm, hk, Bool.and_comm]

/-! The formats over the four fields (rule R72). -/

/-- The bits of register field A that a format uses. -/
def Format.usedA : Format → BitVec 5
  | .r3 | .ri | .st | .mc => BitVec.allOnes 5
  | .cr | .ci | .br | .z => 0

/-- The bits of register field B that a format uses. -/
def Format.usedB : Format → BitVec 5
  | .r3 | .ri | .st | .cr | .ci => BitVec.allOnes 5
  | .mc | .br | .z => 0

/-- The bits of the low half that a format uses: register field C, or the immediate field. -/
def Format.usedLow (b : Nat) : Format → BitVec 16
  | .r3 | .cr => BitVec.allOnes 5 ++ 0#11
  | .ri | .st | .mc | .ci | .br => (BitVec.allOnes b).setWidth 16
  | .z => 0

theorem Format.usedBits_eq_packWord (hb : b ≤ 16) (f : Format) :
    f.usedBits b = packWord (BitVec.allOnes 6) f.usedA f.usedB (f.usedLow b) := by
  revert b
  cases f <;> decide

/-! An equation per format for the canonical word. -/

@[simp] theorem wordOfFormat_r3 (op : BitVec 6) (r : Record b) :
    wordOfFormat op r .r3 = packWord op (bitsOfReg r.rd) (bitsOfReg r.rs1) (bitsOfReg r.rs2 ++ 0#11) := by
  simp only [wordOfFormat, packWord, BitVec.append_assoc]
  simp

@[simp] theorem wordOfFormat_ri (op : BitVec 6) (r : Record b) :
    wordOfFormat op r .ri = packWord op (bitsOfReg r.rd) (bitsOfReg r.rs1) (r.imm.setWidth 16) := rfl

@[simp] theorem wordOfFormat_st (op : BitVec 6) (r : Record b) :
    wordOfFormat op r .st = packWord op (bitsOfReg r.rs1) (bitsOfReg r.rs2) (r.imm.setWidth 16) := rfl

@[simp] theorem wordOfFormat_mc (op : BitVec 6) (r : Record b) :
    wordOfFormat op r .mc = packWord op (bitsOfReg r.rd) 0 (r.imm.setWidth 16) := rfl

@[simp] theorem wordOfFormat_cr (op : BitVec 6) (r : Record b) :
    wordOfFormat op r .cr = packWord op 0 (bitsOfReg r.rs1) (bitsOfReg r.rs2 ++ 0#11) := by
  simp only [wordOfFormat, packWord, BitVec.append_assoc]
  simp

@[simp] theorem wordOfFormat_ci (op : BitVec 6) (r : Record b) :
    wordOfFormat op r .ci = packWord op 0 (bitsOfReg r.rs1) (r.imm.setWidth 16) := rfl

@[simp] theorem wordOfFormat_br (op : BitVec 6) (r : Record b) :
    wordOfFormat op r .br = packWord op 0 0 (r.imm.setWidth 16) := rfl

@[simp] theorem wordOfFormat_z (op : BitVec 6) (r : Record b) : wordOfFormat op r .z = packWord op 0 0 0 := by
  have zeros : 0#26 = 0#5 ++ (0#5 ++ 0#16) := by decide
  simp only [wordOfFormat, packWord, zeros, BitVec.append_assoc, BitVec.cast_eq]
  rfl

/-! Encoding a decoded record, and decoding an encoded one. -/

/-- Writing the decoded fields back gives the word with the unused bits cleared (rule R77). -/
theorem wordOfFormat_ofFormat (hb : b ≤ 16) (k : Kind) (w : Word) (f : Format) :
    wordOfFormat (fieldOp w) (Record.ofFormat b k w f) f = w &&& f.usedBits b := by
  have masked : w &&& f.usedBits b =
      packWord (fieldOp w) (w.extractLsb' 21 5 &&& f.usedA) (w.extractLsb' 16 5 &&& f.usedB)
        (w.extractLsb' 0 16 &&& f.usedLow b) := by
    conv_lhs => rw [← packWord_fields w, f.usedBits_eq_packWord hb, packWord_and, BitVec.and_allOnes]
  rw [masked]
  cases f <;>
    simp only [Record.ofFormat, wordOfFormat_r3, wordOfFormat_ri, wordOfFormat_st, wordOfFormat_mc, wordOfFormat_cr,
      wordOfFormat_ci, wordOfFormat_br, wordOfFormat_z, bitsOfReg_fieldA, bitsOfReg_fieldB,
      Format.usedA, Format.usedB, Format.usedLow, BitVec.and_allOnes, BitVec.and_zero, BitVec.ofNat_eq_ofNat,
      low_and_fieldC, low_and_fieldImm]

/-- The record with the fields that the format of a word does not hold at 0 (rules R70, R75). -/
def Record.clearUnused (r : Record n) : Format → Record n
  | .r3 => { r with imm := 0 }
  | .ri => { r with rs2 := 0 }
  | .st => { r with rd := 0 }
  | .mc => { r with rs1 := 0, rs2 := 0 }
  | .cr => { r with rd := 0, imm := 0 }
  | .ci => { r with rd := 0, rs2 := 0 }
  | .br => { r with rd := 0, rs1 := 0, rs2 := 0 }
  | .z => ⟨r.kind, 0, 0, 0, 0⟩

/-- A canonical word does not depend on the fields its format does not hold. -/
theorem wordOfFormat_clearUnused (op : BitVec 6) (r : Record b) (f : Format) :
    wordOfFormat op (r.clearUnused f) f = wordOfFormat op r f := by
  cases f <;> rfl

/-- A decoded record has its unused fields 0 (rule R75). -/
theorem Record.clearUnused_ofFormat (k : Kind) (w : Word) (f : Format) :
    (Record.ofFormat b k w f).clearUnused f = Record.ofFormat b k w f := by
  cases f <;> rfl

/-- Reading the fields of a canonical word gives the record, unused fields cleared (rule R80). -/
theorem Record.ofFormat_wordOfFormat (hb : b ≤ 16) (op : BitVec 6) (r : Record b) (f : Format) :
    Record.ofFormat b r.kind (wordOfFormat op r f) f = r.clearUnused f := by
  cases f <;> simp [Record.ofFormat, Record.clearUnused, fieldImm_packWord, hb]

/-- A canonical word has 0 in every bit its format does not use (rules R72, R80). -/
theorem wordOfFormat_and_usedBits (hb : b ≤ 16) (op : BitVec 6) (r : Record b) (f : Format) :
    wordOfFormat op r f &&& f.usedBits b = wordOfFormat op r f := by
  have rewritten := wordOfFormat_ofFormat hb r.kind (wordOfFormat op r f) f
  rw [fieldOp_wordOfFormat, Record.ofFormat_wordOfFormat hb, wordOfFormat_clearUnused] at rewritten
  exact rewritten.symm

/-! Instructions and records. -/

theorem Instr.record_kind (i : Instr) (n : Nat) : (i.record n).kind = i.kind := by cases i <;> rfl

/-- The record of an instruction has its unused fields 0 (rule R70). -/
theorem Instr.clearUnused_record (i : Instr) (n : Nat) : (i.record n).clearUnused i.kind.format = i.record n := by
  cases i <;> rfl

/-- The record of a well-formed instruction gives the instruction back (rules R70, R73). -/
theorem instr?_record (i : Instr) : Laws.RecordRoundTrip.Statement i := by
  open Laws.RecordRoundTrip in
  cases i
  exacts [add _ _ _, sub _ _ _, mul _ _ _, div _ _ _, and _ _ _, or _ _ _, xor _ _ _, movc _ _, load _ _ _, store _ _ _,
    bz _, bnz _, halt, addl _ _ _, subl _ _ _, loadp _ _ _, storep _ _ _, cmp _ _, cml _ _, bp _, bnp _, bn _, bnn _,
    jump _ _, jalr _ _ _, nop]

/-- The canonical word of an instruction has the opcode number of its kind (rule R74). -/
theorem fieldOp_encode (i : Instr) : Laws.OpcodeField.Statement i := by
  open Laws.OpcodeField in
  cases i
  exacts [add _ _ _, sub _ _ _, mul _ _ _, div _ _ _, and _ _ _, or _ _ _, xor _ _ _, movc _ _, load _ _ _, store _ _ _,
    bz _, bnz _, halt, addl _ _ _, subl _ _ _, loadp _ _ _, storep _ _ _, cmp _ _, cml _ _, bp _, bnp _, bn _, bnn _,
    jump _ _, jalr _ _ _, nop]

/-- The instruction of a record has a word, the record's kind, and the record's fields where it uses them. -/
theorem Record.spec_of_instr? {r : Record n} (h : r.instr? = some i) :
    i.wf n = true ∧ i.kind = r.kind ∧ i.record n = r.clearUnused i.kind.format := by
  obtain ⟨kind, rd, rs1, rs2, imm⟩ := r
  cases kind with
  | invalid => cases h
  | _ =>
    obtain rfl := Option.some.inj h
    simp [Instr.wf, immFits_toInt, Instr.kind, Instr.record, Record.clearUnused, Kind.format]

/-! Opcode numbers (rules R74 to R76). -/

/-- A legal number is that of its kind. -/
theorem Kind.opcode_ofOpcode : ∀ op ≤ 25, (Kind.ofOpcode op).opcode = some op := by decide

theorem Kind.ofOpcode_eq_invalid {op : Nat} : Kind.ofOpcode op = .invalid ↔ 26 ≤ op := by
  refine ⟨fun invalid => ?_, Kind.ofOpcode_reserved⟩
  by_contra legal
  have opcode := Kind.opcode_ofOpcode op (by omega)
  simp [invalid, Kind.opcode] at opcode

/-! The decoder and the encoder. -/

/-- The decoder's answer is the instruction of the word's record. -/
theorem decode_eq_ok : decode b w = .ok i ↔ (Record.ofWord b w).instr? = some i := by
  unfold decode
  cases (Record.ofWord b w).instr? <;> simp

/-- A legal opcode is decoded to an instruction. -/
theorem exists_decode_eq_ok (legal : (fieldOp w).toNat ≤ 25) : ∃ i, decode b w = .ok i := by
  rcases decode_eq b w with ⟨i, decoded, -⟩ | ⟨-, invalid⟩
  · exact ⟨i, decoded⟩
  · rw [Record.ofWord_kind, Kind.ofOpcode_eq_invalid] at invalid
    omega

/-- What a decoded instruction says about its word: it is well formed, its kind is the one of the opcode field, and
its record is the word's. -/
theorem spec_of_decode (decoded : decode b w = .ok i) :
    i.wf b = true ∧ i.kind = Kind.ofOpcode (fieldOp w).toNat ∧ i.record b = Record.ofWord b w := by
  obtain ⟨wf, kind, record⟩ := Record.spec_of_instr? (decode_eq_ok.mp decoded)
  rw [Record.ofWord_kind] at kind
  refine ⟨wf, kind, ?_⟩
  rw [record, kind]
  exact Record.clearUnused_ofFormat ..

/-- The canonical word decodes to the record of the instruction, whether or not the immediate fits. -/
theorem ofWord_encode (hb : b ≤ 16) (i : Instr) : Record.ofWord b (encode b i) = i.record b := by
  have kind : Kind.ofOpcode (fieldOp (encode b i)).toNat = i.kind :=
    Kind.ofOpcode_opcode (fieldOp_encode i b).symm
  calc Record.ofWord b (encode b i)
      = Record.ofFormat b (i.record b).kind (encode b i) i.kind.format := by
        rw [Record.ofWord, kind, i.record_kind]
    _ = i.record b := by rw [encode, Record.ofFormat_wordOfFormat hb, i.clearUnused_record]

/-- Decoding the canonical word of a well-formed instruction gives it back (rule R80). -/
theorem decode_encode (hb : b ≤ 16) (wf : i.wf b = true) : decode b (encode b i) = .ok i := by
  rw [decode_eq_ok, ofWord_encode hb]
  exact instr?_record i b wf

theorem encode_and_compl_usedBits (hb : b ≤ 16) (i : Instr) : encode b i &&& ~~~(i.kind.format.usedBits b) = 0 := by
  rw [encode, ← wordOfFormat_and_usedBits hb, BitVec.and_assoc, BitVec.and_not_self]
  exact BitVec.and_zero

/-- Encoding what a legal word decodes to clears the unused bits (rule R77). -/
theorem encode_of_decode (hb : b ≤ 16) (legal : (fieldOp w).toNat ≤ 25) (decoded : decode b w = .ok i) :
    encode b i = w &&& i.kind.format.usedBits b := by
  obtain ⟨-, kind, record⟩ := spec_of_decode decoded
  have opcode : BitVec.ofNat 6 (i.kind.opcode.getD 63) = fieldOp w := by
    rw [kind, Kind.opcode_ofOpcode _ legal]
    simp
  rw [encode, opcode, record, kind]
  exact wordOfFormat_ofFormat hb ..

end

/-- Settles O1: the fields of a canonical word are those of the record, and what a word decodes to is well formed. -/
theorem decodeEncodeAgree : Obligations.DecodeEncodeAgree := by
  intro b i hb
  refine ⟨fun wf => ⟨decode_encode hb wf, ofWord_encode hb i, fieldOp_encode i b, encode_and_compl_usedBits hb i⟩,
    fun notWf w decoded => ?_⟩
  obtain ⟨wf, -, -⟩ := spec_of_decode decoded
  simp [wf] at notWf

/-- Settles O2: writing the decoded fields back clears the unused bits. -/
theorem unusedBitsIgnored : Obligations.UnusedBitsIgnored := by
  intro b w hb legal
  obtain ⟨i, decoded⟩ := exists_decode_eq_ok (b := b) legal
  obtain ⟨wf, -, record⟩ := spec_of_decode decoded
  exact ⟨i, decoded, wf, encode_of_decode hb legal decoded, by rw [ofWord_encode hb, record]⟩

/-- Settles O3: a number from 26 on is the kind `INVALID`, and that kind alone is no instruction. -/
theorem reservedOpcodesRejected : Obligations.ReservedOpcodesRejected := by
  intro b w
  refine ⟨fun reserved => ?_, exists_decode_eq_ok⟩
  have record : Record.ofWord b w = ⟨.invalid, 0, 0, 0, 0⟩ := by
    rw [Record.ofWord, Kind.ofOpcode_reserved reserved]
    rfl
  refine ⟨?_, record⟩
  rw [decode, record]
  rfl

/-- Settles O4, by running the decoder on each word. -/
theorem sampleWordsDecode : Obligations.SampleWordsDecode := by
  unfold Obligations.SampleWordsDecode
  decide

end Sys2Proof
end

section
/-! SUPPORT. Division by 0, and logic and move (spec 40_arithmetic_logic.md rules R94 to R97, R100; 60_exceptions.md
rule R223): the logic results bit by bit, completion without flags, and the statements about both. -/

namespace Sys2Proof.Machine

section

variable {c : Config}

/-! The results bit by bit. -/

theorem getElem_aluAnd {n : Nat} (a b : BitVec n) (k : Fin n) : (aluAnd a b)[k] = (a[k] && b[k]) :=
  BitVec.getElem_and k.isLt

theorem getElem_aluOr {n : Nat} (a b : BitVec n) (k : Fin n) : (aluOr a b)[k] = (a[k] || b[k]) :=
  BitVec.getElem_or k.isLt

theorem getElem_aluXor {n : Nat} (a b : BitVec n) (k : Fin n) : (aluXor a b)[k] = (a[k] ^^ b[k]) :=
  BitVec.getElem_xor k.isLt

/-! Completion. -/

theorem CoreState.finishResult_completes (s : CoreState c) (rd : Reg) (v : c.Value) :
    ResultWritten rd v s (s.finishResult rd v) ∧ (s.finishResult rd v).flags = s.flags := by
  refine ⟨⟨s.reg_setReg_self rd v, fun r other => ?_, fun _ => rfl, .refl s, rfl, rfl, rfl, rfl⟩, rfl⟩
  exact s.reg_setReg_other v (by simpa using other)

end

/-- Settles O7: with the divisor 0 the answer is the core with the fault raised. -/
theorem divisionByZeroFaults : Obligations.DivisionByZeroFaults := by
  intro c l s rd rs1 rs2 divisor
  refine ⟨_, exec_div .., ?_⟩
  rw [if_pos divisor]
  exact s.raise_faultRecorded ..

/-- Settles O8: each of the four writes its result, leaves the flags, and the three logic results are known by their
bits. -/
theorem logicAndMoveComplete : Obligations.LogicAndMoveComplete := by
  intro c l s rd rs1 rs2 imm
  have completes (v : c.Value) := s.finishResult_completes rd v
  exact ⟨⟨_, aluAnd .., exec_and .., and_assoc.mp ⟨completes _, getElem_aluAnd _ _⟩⟩,
    ⟨_, aluOr .., exec_or .., and_assoc.mp ⟨completes _, getElem_aluOr _ _⟩⟩,
    ⟨_, aluXor .., exec_xor .., and_assoc.mp ⟨completes _, getElem_aluXor _ _⟩⟩,
    ⟨_, exec_movc .., completes _⟩⟩

end Sys2Proof.Machine
end

section
/-! SUPPORT. Loads and stores inside the data memory (spec 41_load_store.md rules R110 to R114): what each of the four
answers there, the completion of a store, and the statements about them. -/

namespace Sys2Proof.Machine

section

variable {c : Config} {s t : CoreState c} {l : Layer} {rd rs1 rs2 : Reg} {imm : Int} {ea v : c.Value}

/-! The accesses inside the memory. -/

theorem CoreState.memRead_of_inside (inside : ea.toNat < c.dmemSize) : s.memRead ea = some (readCell s.dmem ea.toNat) :=
  CoreState.memRead_eq_some.mpr ⟨inside, rfl⟩

theorem CoreState.memWrite_of_inside (inside : ea.toNat < c.dmemSize) :
    s.memWrite ea v = some (s.setCells (writeCell s.dmem ea.toNat v)) :=
  CoreState.memWrite_eq_some.mpr ⟨inside, rfl⟩

/-! The four answers. -/

theorem exec_load_of_inside (inside : (effAddr (s.reg rs1) (immValue c imm)).toNat < c.dmemSize) :
    exec (.load rd rs1 imm) (s.onLayer l) =
      .next ((s.finishResult rd (readCell s.dmem (effAddr (s.reg rs1) (immValue c imm)).toNat)).onLayer l) := by
  rw [exec_load, CoreState.memRead_of_inside inside]
  rfl

theorem exec_loadp_of_inside (inside : (effAddr (s.reg rs1) (immValue c imm)).toNat < c.dmemSize) :
    exec (.loadp rd rs1 imm) (s.onLayer l) =
      .next (((s.setReg rs1 (postInc c (s.reg rs1))).finishResult rd
        (readCell s.dmem (effAddr (s.reg rs1) (immValue c imm)).toNat)).onLayer l) := by
  rw [exec_loadp, CoreState.memRead_of_inside inside]
  rfl

/-- What a completed store leaves: the cell written, and the next instruction. -/
def CoreState.finishStore (s : CoreState c) (ea v : c.Value) : CoreState c :=
  (s.setCells (writeCell s.dmem ea.toNat v)).retireNext

theorem exec_store_of_inside (inside : (effAddr (s.reg rs2) (immValue c imm)).toNat < c.dmemSize) :
    exec (.store rs1 rs2 imm) (s.onLayer l) =
      .next ((s.finishStore (effAddr (s.reg rs2) (immValue c imm)) (s.reg rs1)).onLayer l) := by
  rw [exec_store, CoreState.memWrite_of_inside inside]
  rfl

/-- The base and the cell are written apart: the order does not show. -/
theorem exec_storep_of_inside (inside : (effAddr (s.reg rs2) (immValue c imm)).toNat < c.dmemSize) :
    exec (.storep rs1 rs2 imm) (s.onLayer l) =
      .next (((s.finishStore (effAddr (s.reg rs2) (immValue c imm)) (s.reg rs1)).setReg rs2
        (postInc c (s.reg rs2))).onLayer l) := by
  rw [exec_storep, CoreState.memWrite_of_inside inside]
  rfl

/-! Completion. -/

/-- A store inside a canonical memory writes its cell alone and keeps the form. -/
theorem CoreState.finishStore_cellStored (canonical : s.memoryOk = true) (inside : ea.toNat < c.dmemSize) :
    CellStored ea v s (s.finishStore ea v) := by
  have wf : memoryWf s.dmem = true := by
    simp only [CoreState.memoryOk, Bool.and_eq_true] at canonical
    exact canonical.1
  exact ⟨fun a => readCell_writeCell s.dmem ea.toNat a v wf, CoreState.memoryOk_of_writeCell inside rfl canonical,
    rfl, .refl s, rfl, rfl, rfl, rfl⟩

/-- A register write beside a store changes nothing the store is known by. -/
theorem CellStored.setReg (stored : CellStored ea v s t) (r : Reg) (w : c.Value) : CellStored ea v s (t.setReg r w) :=
  stored

end

/-- Settles O15: the answer is the core with the one cell written. -/
theorem storeCompletes : Obligations.StoreCompletes := by
  intro c l s rs1 rs2 imm ea canonical inside
  exact ⟨_, exec_store_of_inside inside, fun _ _ => rfl, CoreState.finishStore_cellStored canonical inside⟩

/-- Settles O16: the cell is written with the register as it was, and then the base is. -/
theorem storepCompletes : Obligations.StorepCompletes := by
  intro c l s rs1 rs2 imm ea canonical inside
  refine ⟨_, exec_storep_of_inside inside, CoreState.reg_setReg_self .., fun r other => ?_,
    (CoreState.finishStore_cellStored canonical inside).setReg ..⟩
  exact CoreState.reg_setReg_other _ _ (by simpa using other)

/-- Settles O13: a load completes as the write of its cell to `rd`. -/
theorem loadCompletes : Obligations.LoadCompletes := by
  intro c l s rd rs1 imm ea inside
  exact ⟨_, exec_load_of_inside inside, s.finishResult_completes ..⟩

/-- Settles O14: a load from the core with the base already incremented, so that `rd` is written last. -/
theorem loadpCompletes : Obligations.LoadpCompletes := by
  intro c l s rd rs1 imm ea inside
  obtain ⟨⟨loaded, others, cells, rest, completed⟩, flags⟩ :=
    (s.setReg rs1 (postInc c (s.reg rs1))).finishResult_completes rd (readCell s.dmem ea.toNat)
  refine ⟨_, exec_loadp_of_inside inside, loaded, fun distinct => ?_, fun r other => ?_, flags, cells, rest,
    completed⟩
  · rw [others rs1 (by simpa using distinct.symm)]
    exact s.reg_setReg_self ..
  · obtain ⟨notRd, notBase⟩ : r ≠ rd ∧ r ≠ rs1 := by simpa using other
    rw [others r (by simpa using notRd)]
    exact s.reg_setReg_other _ notBase

end Sys2Proof.Machine
end

section
/-! SUPPORT. Control transfer, `NOP`, `HALT` and `INVALID` (spec 42_control_transfer.md rules R120 to R133): where a
transfer goes and when it faults, the statements about each instruction, and the state a retiring `HALT` leaves behind
(60_exceptions.md rule R234). -/

namespace Sys2Proof.Machine

section

variable {c : Config} {s : CoreState c} {l : Layer} {rd rs1 : Reg} {imm : Int} {a : c.Value}

/-! Transfers. -/

theorem CoreState.retireTo_onlyWentTo (s : CoreState c) (a : c.Value) : OnlyWentTo a s (s.retireTo a) :=
  ⟨fun _ _ => rfl, rfl, fun _ => rfl, .refl s, rfl, rfl, rfl, rfl⟩

theorem CoreState.transfer_onlyWentTo (target : aligned a = true) : OnlyWentTo a s (s.transfer a) := by
  rw [CoreState.transfer, if_pos target]
  exact s.retireTo_onlyWentTo a

theorem CoreState.transfer_faultRecorded (target : aligned a = false) :
    FaultRecorded .misalignedTarget s.pc a s (s.transfer a) := by
  rw [CoreState.transfer, if_neg (by simp [target])]
  exact s.raise_faultRecorded ..

/-- A branch kind that resolves by a test of the flags follows the rule for every condition the test decides. -/
theorem branchRule_of_exec {i : Int → Instr} {cond : Flags → Prop} (test : Flags → Bool)
    (decides : ∀ f, test f = true ↔ cond f)
    (answer : ∀ (c : Config) (l : Layer) (s : CoreState c) (imm : Int),
      exec (i imm) (s.onLayer l) = .next ((s.branch (test s.flags) (immValue c imm)).onLayer l)) :
    BranchRule i cond := by
  intro c l s imm target
  have goes (holds : cond s.flags) : s.branch (test s.flags) (immValue c imm) = s.transfer target :=
    if_pos ((decides _).mpr holds)
  have falls (fails : ¬cond s.flags) : s.branch (test s.flags) (immValue c imm) = s.retireNext :=
    if_neg (mt (decides _).mp fails)
  refine ⟨fun holds ok => ⟨_, answer .., ?_⟩, fun fails => ⟨_, answer .., ?_⟩, fun holds bad => ⟨_, answer .., ?_⟩⟩
  · rw [goes holds]
    exact CoreState.transfer_onlyWentTo ok
  · rw [falls fails]
    exact s.retireTo_onlyWentTo _
  · rw [goes holds]
    exact CoreState.transfer_faultRecorded bad

theorem exec_jalr_of_aligned (target : aligned (jumpTarget (s.reg rs1) (immValue c imm)) = true) :
    exec (.jalr rd rs1 imm) (s.onLayer l) =
      .next (((s.setReg rd (nextPc s.pc)).retireTo (jumpTarget (s.reg rs1) (immValue c imm))).onLayer l) := by
  rw [exec_jalr, if_pos target]

theorem exec_jalr_of_misaligned (target : aligned (jumpTarget (s.reg rs1) (immValue c imm)) = false) :
    exec (.jalr rd rs1 imm) (s.onLayer l) =
      .next ((s.raise .misalignedTarget s.pc (jumpTarget (s.reg rs1) (immValue c imm))).onLayer l) := by
  rw [exec_jalr, if_neg (by simp [target])]

/-! An `INVALID` entry of the sequential machine. -/

/-- A running sequential machine raises where the entry at `pc` is no instruction. -/
theorem step_raises {e : Entry c.xlen} (boot : s.bootProblem = none) (running : s.stopped = false)
    (entry : s.entryAt s.pc = some e) (invalid : (e.toRecord c.immBits).kind = .invalid) :
    step (s.onLayer .sequential) = .next ((s.raise .invalidOpcode s.pc 0).onLayer .sequential) := by
  have noInstr := Record.instr?_eq_none.mpr invalid
  rw [step_sequential s boot]
  rcases seqStep_cases s .sequential with ⟨stopped, -⟩ | ⟨-, noEntry, -⟩ | ⟨d, j, -, entry', instr, -⟩ |
    ⟨-, -, -, -, raised⟩
  · simp [running] at stopped
  · simp [entry] at noEntry
  · obtain rfl : e = d := by simpa [entry] using entry'
    simp [noInstr] at instr
  · exact raised

/-! The tick in which `HALT` retires. -/

/-- Only Writeback stops a running machine without a fault, and the tick ends there (rules R141, R143). -/
theorem tick_of_halting (running : s.stopped = false) (halting : (tick s).halted = true) :
    s.lWB.holdsHalt = true ∧ tick s = (wbStage s).countCycle := by
  obtain ⟨notHalted, -⟩ := CoreState.not_stopped running
  have retired (halted : (wbStage s).halted = true) : s.lWB.holdsHalt = true := by
    simpa [wbStage_halted, notHalted] using halted
  rcases tick_cases s with ⟨stopped, -⟩ | ⟨-, halted, e⟩ | ⟨-, goesOn, -, e⟩ | ⟨-, goesOn, -, -, e⟩ |
    ⟨-, goesOn, -, -, e⟩
  · simp [running] at stopped
  · exact ⟨retired halted, e⟩
  all_goals simp [e, goesOn] at halting

theorem tick_of_stopped (stopped : s.stopped = true) : tick s = s := if_pos stopped

/-- Under either strategy a register with no writer in flight is not busy (rule R191). -/
theorem CoreState.ScoreboardInv.busyBit_of_no_writer (h : s.ScoreboardInv) {r : Reg} (free : s.writersInFlight r = 0) :
    s.busyBit r = false := by
  cases strategy : c.strategy with
  | stallOnly =>
    obtain ⟨-, busy⟩ := (CoreState.scoreboardInv_stallOnly strategy).mp h r
    simpa [free] using busy
  | forwarding => exact (CoreState.scoreboardInv_forwarding strategy).mp h r

theorem CoreState.writersInFlight_of_empty (lEX : s.lEX.valid = false) (lMEM : s.lMEM.valid = false)
    (lWB : s.lWB.valid = false) (r : Reg) : s.writersInFlight r = 0 := by
  simp [CoreState.writersInFlight_eq, Latch.produces_of_invalid, lEX, lMEM, lWB]

end

/-- Settles O56: the invariant, which the tick keeps, says what stands behind a retired `HALT`; the fault register and
the address are those Writeback left. -/
theorem haltedStateIsClean : Obligations.HaltedStateIsClean := by
  intro c s inv running halting
  obtain ⟨holdsHalt, e⟩ := tick_of_halting running halting
  obtain ⟨valid, kind⟩ : s.lWB.valid = true ∧ s.lWB.kind = .halt := by simpa [Latch.holdsHalt] using holdsHalt
  obtain ⟨-, noFault⟩ := CoreState.not_stopped running
  have inv' := tickKeepsPipelineInv c s inv
  obtain ⟨⟨disabled, noStall, lF, lD⟩, lEX, lMEM, lWB, -, pc⟩ := inv'.haltDone halting
  have address : (tick s).lWB.pc = s.lWB.pc := by simp [e, wbStage_lWB]
  have free (r : Reg) : (tick s).busyBit r = false :=
    inv'.scoreboard.busyBit_of_no_writer (CoreState.writersInFlight_of_empty lEX lMEM lWB r)
  have stays : tick (tick s) = tick s := tick_of_stopped (by simp [CoreState.stopped, halting])
  exact ⟨lF, lD, lEX, lMEM, lWB, disabled, noStall, inv'.noBubble, free, valid, kind, address ▸ pc,
    by simpa [e] using noFault, stays, fun _ => rfl⟩

/-- Settles O21: the six kinds resolve alike, each by its own test of the flags. -/
theorem branchesComplete : Obligations.BranchesComplete :=
  ⟨branchRule_of_exec condZ (by simp [condZ]) fun _ l s imm => exec_bz s l imm,
    branchRule_of_exec condNZ (by simp [condNZ]) fun _ l s imm => exec_bnz s l imm,
    branchRule_of_exec condP (by simp [condP]) fun _ l s imm => exec_bp s l imm,
    branchRule_of_exec condNP (by simp [condNP]) fun _ l s imm => exec_bnp s l imm,
    branchRule_of_exec condN (by simp [condN]) fun _ l s imm => exec_bn s l imm,
    branchRule_of_exec condNN (by simp [condNN]) fun _ l s imm => exec_bnn s l imm⟩

/-- Settles O22: `JUMP` is a transfer, and `JALR` writes its link beside one. -/
theorem jumpsComplete : Obligations.JumpsComplete := by
  intro c l s rd rs1 imm target ok
  refine ⟨⟨_, exec_jump .., CoreState.transfer_onlyWentTo ok⟩, _, exec_jalr_of_aligned ok, s.reg_setReg_self ..,
    fun r other => ?_, rfl, fun _ => rfl, .refl s, rfl, rfl, rfl, rfl⟩
  exact s.reg_setReg_other _ (by simpa using other)

/-- Settles O23: both raise before anything is written. -/
theorem misalignedJumpsFault : Obligations.MisalignedJumpsFault := by
  intro c l s rd rs1 imm target bad
  exact ⟨⟨_, exec_jump .., CoreState.transfer_faultRecorded bad⟩, _, exec_jalr_of_misaligned bad,
    s.raise_faultRecorded ..⟩

/-- Settles O24: both complete at the next instruction, and `HALT` sets `halted` besides. -/
theorem nopAndHaltComplete : Obligations.NopAndHaltComplete := by
  intro c l s
  exact ⟨⟨_, exec_nop .., s.retireTo_onlyWentTo _⟩, _, exec_halt .., rfl, rfl, rfl, rfl, fun _ _ => rfl, rfl,
    fun _ => rfl, .refl s⟩

/-- Settles O27: a record of kind `INVALID`, of a word or as loaded, is no instruction. -/
theorem invalidEntryFaults : Obligations.InvalidEntryFaults := by
  intro c s e boot running entry invalid
  exact ⟨_, step_raises boot running entry invalid, s.raise_faultRecorded ..⟩

end Sys2Proof.Machine
end

section
/-! SUPPORT. The sequential state a pipeline state stands for (spec 60_exceptions.md rule R230;
70_reset_and_hazards.md rule R250): what it is made of, the stages that leave it as it is, and Execute, which does not
see what Writeback does. -/

namespace Sys2Proof.Machine

section

variable {c : Config} {s t : CoreState c}

/-! What Memory does with a valid latch. -/

theorem memStage_of_load (valid : s.lMEM.valid = true) (load : isLoad s.lMEM.kind = true)
    (inside : s.lMEM.memAddr.toNat < c.dmemSize) :
    memStage s = s.passToWB { s.lMEM with result := readCell s.dmem s.lMEM.memAddr.toNat } := by
  simp [memStage, valid, load, CoreState.memRead_of_inside inside]

theorem memStage_of_store (valid : s.lMEM.valid = true) (store : isStore s.lMEM.kind = true)
    (inside : s.lMEM.memAddr.toNat < c.dmemSize) :
    memStage s = (s.setCells (writeCell s.dmem s.lMEM.memAddr.toNat s.lMEM.rs1Value)).passToWB s.lMEM := by
  have noLoad : isLoad s.lMEM.kind = false := by
    by_contra load
    simp [isStore_of_isLoad (by simpa using load)] at store
  simp [memStage, valid, noLoad, store, CoreState.memWrite_of_inside inside]

theorem memStage_of_noAccess (valid : s.lMEM.valid = true) (load : isLoad s.lMEM.kind = false)
    (store : isStore s.lMEM.kind = false) : memStage s = s.passToWB s.lMEM := by
  simp [memStage, valid, load, store]

/-! What the sequential view is made of. -/

/-- Two states agree on what the instructions past Execute read and write, but for the scoreboard. -/
structure CoreState.SameBack (s t : CoreState c) : Prop where
  x : t.x = s.x
  flags : t.flags = s.flags
  dmem : t.dmem = s.dmem
  halted : t.halted = s.halted
  fault : t.fault = s.fault
  retired : t.retired = s.retired
  lMEM : t.lMEM = s.lMEM
  lWB : t.lWB = s.lWB

theorem CoreState.x_ext (h : ∀ r : Reg, t.reg r = s.reg r) : t.x = s.x :=
  Vector.ext fun i bound => h ⟨i, bound⟩

theorem wbStage_x_congr (x : t.x = s.x) (lWB : t.lWB = s.lWB) : (wbStage t).x = (wbStage s).x :=
  CoreState.x_ext fun r => by rw [reg_wbStage, reg_wbStage, lWB, CoreState.reg_congr x]

theorem CoreState.SameBack.wbStage (h : s.SameBack t) : (wbStage s).SameBack (wbStage t) where
  x := wbStage_x_congr h.x h.lWB
  flags := by simpa using h.flags
  dmem := by simpa using h.dmem
  halted := by simp only [wbStage_halted, h.halted, h.lWB]
  fault := by simpa using h.fault
  retired := by simp only [wbStage_retired, h.retired, h.lWB]
  lMEM := by simpa using h.lMEM
  lWB := by simp only [wbStage_lWB, h.lWB]

/-- What Memory makes of the four fields it writes depends on those four alone. -/
theorem memStage_congr (dmem : t.dmem = s.dmem) (fault : t.fault = s.fault) (lMEM : t.lMEM = s.lMEM)
    (lWB : t.lWB = s.lWB) :
    (memStage t).dmem = (memStage s).dmem ∧ (memStage t).fault = (memStage s).fault ∧
      (memStage t).lMEM = (memStage s).lMEM ∧ (memStage t).lWB = (memStage s).lWB := by
  rcases memStage_cases s with ⟨valid, e⟩ | ⟨v, valid, load, read, e⟩ | ⟨valid, -, store, inside, e⟩ |
    ⟨valid, load, store, e⟩ | ⟨valid, access, outside, e⟩ <;> rw [e]
  · rw [memStage_eq_self (lMEM ▸ valid)]
    exact ⟨dmem, fault, lMEM, lWB⟩
  · obtain ⟨inside, rfl⟩ := CoreState.memRead_eq_some.mp read
    rw [memStage_of_load (lMEM ▸ valid) (lMEM ▸ load) (lMEM ▸ inside)]
    simp [dmem, fault, lMEM]
  · rw [memStage_of_store (lMEM ▸ valid) (lMEM ▸ store) (lMEM ▸ inside)]
    simp [dmem, fault, lMEM]
  · rw [memStage_of_noAccess (lMEM ▸ valid) (lMEM ▸ load) (lMEM ▸ store)]
    simp [dmem, fault, lMEM]
  · rw [memStage_of_outside (lMEM ▸ valid) (lMEM ▸ access) (lMEM ▸ outside)]
    simp [dmem, lMEM, lWB]

theorem CoreState.SameBack.memStage (h : s.SameBack t) : (memStage s).SameBack (memStage t) := by
  obtain ⟨dmem, fault, lMEM, lWB⟩ := memStage_congr h.dmem h.fault h.lMEM h.lWB
  exact ⟨by simpa using h.x, by simpa using h.flags, dmem, by simpa using h.halted, fault, by simpa using h.retired,
    lMEM, lWB⟩

theorem CoreState.SameBack.drained (h : s.SameBack t) : s.drained.SameBack t.drained := by
  have accessed := h.wbStage.memStage
  simp only [CoreState.drained, accessed.fault]
  split
  · exact accessed
  · exact accessed.wbStage

/-- The address of the oldest instruction that has not passed Execute. -/
def CoreState.front (s : CoreState c) : c.Value :=
  if s.lEX.valid then s.lEX.pc else if s.lD.valid then s.lD.pc else s.pc

theorem CoreState.nextToExecute_eq (s : CoreState c) :
    s.nextToExecute = if s.drained.fault.kind ≠ .none then s.drained.fault.pc else s.front := rfl

theorem CoreState.seqView_arch (s : CoreState c) :
    s.seqView.arch = ⟨s.drained.x, s.nextToExecute, s.drained.flags, s.drained.dmem, s.drained.halted,
      s.drained.fault, s.drained.retired⟩ := rfl

theorem CoreState.seqView_arch_congr (back : s.SameBack t) (front : t.front = s.front) :
    t.seqView.arch = s.seqView.arch := by
  have h := back.drained
  simp only [CoreState.seqView_arch, CoreState.nextToExecute_eq, h.x, h.flags, h.dmem, h.halted, h.fault, h.retired,
    front]

/-- A stage that leaves the drained state and the front leaves the whole sequential state. -/
theorem CoreState.seqView_congr (drained : t.drained = s.drained) (front : t.front = s.front) :
    t.seqView = s.seqView := by
  simp only [CoreState.seqView, CoreState.nextToExecute_eq, drained, front]

/-! The stages that execute nothing. -/

theorem wbStage_seqView : (wbStage s).seqView = s.seqView :=
  CoreState.seqView_congr wbStage_drained (by simp [CoreState.front])

/-- Memory raises for an access outside the memory only. -/
theorem memStage_of_fault (noFault : s.fault.kind = .none) (fault : (memStage s).fault.kind ≠ .none) :
    s.lMEM.valid = true ∧ (isLoad s.lMEM.kind = true ∨ isStore s.lMEM.kind = true) ∧
      c.dmemSize ≤ s.lMEM.memAddr.toNat ∧ memStage s = s.raise .memoryFault s.lMEM.pc s.lMEM.memAddr := by
  obtain ⟨valid, access, outside⟩ := not_not.mp fun h => fault ((memStage_fault_none s).mpr ⟨noFault, h⟩)
  exact ⟨valid, access, outside, memStage_of_outside valid access outside⟩

/-- Memory completes an access, or raises the fault that draining raises. -/
theorem memStage_drained_eq (empty : s.lWB.valid = false) (noFault : s.fault.kind = .none) :
    (memStage s).drained = s.drained := by
  by_cases ok : (memStage s).fault.kind = .none
  · exact memStage_drained empty ok
  · obtain ⟨valid, access, outside, raised⟩ := memStage_of_fault noFault ok
    have again : memStage (memStage s) = memStage s := by
      rw [raised]
      exact memStage_of_outside (s := s.raise ..) valid access outside
    have idle : wbStage (memStage s) = memStage s := wbStage_eq_self (by simp [raised, empty])
    simp only [CoreState.drained, wbStage_eq_self empty, idle, again]

theorem memStage_seqView (empty : s.lWB.valid = false) (noFault : s.fault.kind = .none) :
    (memStage s).seqView = s.seqView :=
  CoreState.seqView_congr (memStage_drained_eq empty noFault) (by simp [CoreState.front])

theorem CoreState.countCycle_seqView_arch : s.countCycle.seqView.arch = s.seqView.arch :=
  CoreState.seqView_arch_congr ⟨rfl, rfl, rfl, rfl, rfl, rfl, rfl, rfl⟩ rfl

/-- An instruction that issues is the oldest before and after. -/
theorem drfStage_front (empty : s.lEX.valid = false) : (drfStage s).front = s.front := by
  rcases drfStage_cases s with ⟨-, e⟩ | ⟨valid, ⟨-, e⟩ | ⟨-, e⟩⟩
  · simp [e, CoreState.front]
  · simp [e, CoreState.front]
  · simp [e, CoreState.front, empty, valid]

theorem drfStage_seqView_arch (empty : s.lEX.valid = false) : (drfStage s).seqView.arch = s.seqView.arch :=
  CoreState.seqView_arch_congr ⟨by simp, by simp, by simp, by simp, by simp, by simp, by simp, by simp⟩
    (drfStage_front empty)

/-- Where nothing is in Decode or Execute, the instruction fetched is the one at `pc`. -/
theorem fetchStage_front_eq (front : s.lD.valid = s.stall) : (fetchStage s).front = s.front := by
  rcases fetchStage_front s with ⟨lD, pc⟩ | ⟨_, -, noStall, -, passed⟩
  · simp [CoreState.front, lD, pc]
  · simp [CoreState.front, passed, front.trans noStall]

theorem fetchStage_seqView_arch (front : s.lD.valid = s.stall) : (fetchStage s).seqView.arch = s.seqView.arch :=
  CoreState.seqView_arch_congr ⟨by simp, by simp, by simp, by simp, by simp, by simp, by simp, by simp⟩
    (fetchStage_front_eq front)

/-! Execute does not see what Writeback does. -/

/-- `s` with what Writeback writes taken from `w`. -/
def CoreState.withRetired (s w : CoreState c) : CoreState c :=
  { s with x := w.x, busy := w.busy, retired := w.retired, halted := w.halted, lWB := w.lWB }

theorem wbStage_eq_withRetired (s : CoreState c) : wbStage s = s.withRetired (wbStage s) := by
  unfold wbStage CoreState.commitRd CoreState.commitBase
  cases s.lWB.valid <;> cases base? s.lWB.toRecord <;> cases writesRd s.lWB.kind <;> rfl

/-- The answer with `f` applied to its state. -/
def ExOut.mapCore (f : CoreState c → CoreState c) : ExOut c → ExOut c
  | .pass l t => .pass l (f t)
  | .raise t => .raise (f t)

theorem exBranch_withRetired (taken : Bool) (l : Latch c.xlen) (s w : CoreState c) :
    exBranch taken l (s.withRetired w) = (exBranch taken l s).mapCore (·.withRetired w) := by
  simp only [exBranch]
  split_ifs <;> rfl

theorem exKind_withRetired (l : Latch c.xlen) (s w : CoreState c) :
    exKind l (s.withRetired w) = (exKind l s).mapCore (·.withRetired w) := by
  unfold exKind
  cases l.kind with
  | bz | bnz | bp | bnp | bn | bnn => exact exBranch_withRetired ..
  | div => simp only [exDiv]; split <;> rfl
  | jump => simp only [exJump]; split <;> rfl
  | jalr => simp only [exJalr]; split <;> rfl
  | _ => rfl

/-- The state that the answer of Execute's part leaves. -/
def ExOut.handOn : ExOut c → CoreState c
  | .pass l t => t.passToMEM l
  | .raise t => t

@[simp] theorem ExOut.handOn_pass (l : Latch c.xlen) (t : CoreState c) : (ExOut.pass l t).handOn = t.passToMEM l := rfl
@[simp] theorem ExOut.handOn_raise (t : CoreState c) : (ExOut.raise t).handOn = t := rfl

theorem exStage_eq_handOn (valid : s.lEX.valid = true) : exStage s = (exKind s.lEX s).handOn := by
  simp only [exStage, valid, if_true]
  cases exKind s.lEX s <;> rfl

theorem exStage_withRetired (s w : CoreState c) : exStage (s.withRetired w) = (exStage s).withRetired w := by
  by_cases valid : s.lEX.valid = true
  · rw [exStage_eq_handOn valid, exStage_eq_handOn (s := s.withRetired w) valid]
    change (exKind s.lEX (s.withRetired w)).handOn = _
    rw [exKind_withRetired]
    cases exKind s.lEX s <;> rfl
  · rw [Bool.not_eq_true] at valid
    rw [exStage_eq_self valid, exStage_eq_self (s := s.withRetired w) valid]

/-- The sequential state after Execute is the same where Writeback has already completed `L_WB`. -/
theorem exStage_wbStage_seqView_arch : (exStage (wbStage s)).seqView.arch = (exStage s).seqView.arch := by
  rw [← wbStage_seqView (s := exStage s), wbStage_eq_withRetired s, exStage_withRetired]
  refine CoreState.seqView_arch_congr ⟨?_, ?_, ?_, ?_, ?_, ?_, ?_, ?_⟩ ?_
  · exact wbStage_x_congr (by simp) (by simp)
  all_goals simp [CoreState.withRetired, CoreState.front, wbStage_halted, wbStage_retired, wbStage_lWB]

end

end Sys2Proof.Machine
end

section
/-! SUPPORT. The effect of each instruction on the sequential machine is what the pipeline completes once Execute has
handed the instruction on (spec 43_pipeline_stages.md rules R143 to R145; 70_reset_and_hazards.md rule R250). -/

namespace Sys2Proof.Machine

section

variable {c : Config} {s t d u p r : CoreState c} {m : Latch c.xlen}

/-! The sequential state where nothing is in Writeback. -/

theorem CoreState.arch_ext (x : ∀ q : Reg, t.reg q = s.reg q) (pc : t.pc = s.pc) (flags : t.flags = s.flags)
    (dmem : t.dmem = s.dmem) (halted : t.halted = s.halted) (fault : t.fault = s.fault)
    (retired : t.retired = s.retired) : t.arch = s.arch := by
  simp only [CoreState.arch, CoreState.x_ext x, pc, flags, dmem, halted, fault, retired]

theorem CoreState.passToWB_holdsHalt (r : CoreState c) (m : Latch c.xlen) :
    (r.passToWB m).lWB.holdsHalt = decide (m.kind = .halt) := rfl

/-- The instruction in Memory is handed on as `m` and completes: its destinations are written, it is counted, and the
next one is at the front. -/
theorem CoreState.arch_of_passed (empty : p.lWB.valid = false) (mem : memStage p = r.passToWB m)
    (noFault : r.fault.kind = .none)
    (x : ∀ q : Reg, u.reg q = if writesRd m.kind = true ∧ m.rd = q then m.result
      else if base? m.toRecord = some q then m.baseNew else r.reg q)
    (pc : u.pc = p.front) (flags : u.flags = r.flags) (dmem : u.dmem = r.dmem)
    (halted : u.halted = (r.halted || decide (m.kind = .halt))) (fault : u.fault = r.fault)
    (retired : u.retired = r.retired + 1) : u.arch = p.seqView.arch := by
  have drained : p.drained = wbStage (r.passToWB m) := by
    simp [CoreState.drained, wbStage_eq_self empty, mem, noFault]
  have next : p.nextToExecute = p.front := by
    simp [CoreState.nextToExecute_eq, drained, noFault]
  refine CoreState.arch_ext (fun q => ?_) (pc.trans next.symm) ?_ ?_ ?_ ?_ ?_
  · change u.reg q = p.drained.reg q
    simp [drained, reg_wbStage_eq, x]
  case refine_4 =>
    change u.halted = p.drained.halted
    rw [drained, wbStage_halted, halted, CoreState.passToWB_holdsHalt, CoreState.passToWB_halted]
  all_goals simp [CoreState.seqView, wbStage_retired, *]

/-- A recorded fault is all that follows the older instructions. -/
theorem CoreState.arch_of_raised {k : FaultKind} {a i : c.Value} (empty : p.lWB.valid = false)
    (mem : memStage p = r.raise k a i) (isFault : k ≠ .none) (x : u.x = r.x) (pc : u.pc = a) (flags : u.flags = r.flags)
    (dmem : u.dmem = r.dmem) (halted : u.halted = r.halted) (fault : u.fault = ⟨k, a, i⟩)
    (retired : u.retired = r.retired) : u.arch = p.seqView.arch := by
  have drained : p.drained = r.raise k a i := by
    simp [CoreState.drained, wbStage_eq_self empty, mem, isFault]
  have next : p.nextToExecute = a := by
    simp [CoreState.nextToExecute_eq, drained, isFault]
  rw [CoreState.seqView_arch, next, drained]
  simp [CoreState.arch, *]

/-! An instruction in Execute with nothing past it. -/

/-- An instruction is in Execute with its operands, on the predicted path, and nothing older is in flight. -/
structure CoreState.AtExecute (d : CoreState c) : Prop where
  valid : d.lEX.valid = true
  lMEM : d.lMEM.valid = false
  lWB : d.lWB.valid = false
  fault : d.fault.kind = .none
  path : d.lEX.OnPath d (if d.lD.valid then d.lD.pc else d.pc)
  rs1 : readsRs1 d.lEX.kind = true → d.lEX.rs1Value = d.reg d.lEX.rs1
  rs2 : readsRs2 d.lEX.kind = true → d.lEX.rs2Value = d.reg d.lEX.rs2

/-- The core of the sequential machine that is to run the instruction in Execute. -/
def CoreState.atEX (d : CoreState c) : CoreState c := { d with pc := d.lEX.pc }

@[simp] theorem CoreState.atEX_reg (q : Reg) : d.atEX.reg q = d.reg q := rfl
@[simp] theorem CoreState.atEX_pc : d.atEX.pc = d.lEX.pc := rfl
@[simp] theorem CoreState.atEX_halted : d.atEX.halted = d.halted := rfl
@[simp] theorem CoreState.atEX_dmem : d.atEX.dmem = d.dmem := rfl

theorem CoreState.AtExecute.seqView_eq (h : d.AtExecute) : d.seqView = d.atEX := by
  simp [CoreState.seqView, CoreState.atEX, CoreState.nextToExecute, CoreState.drained_eq_self h.lMEM h.lWB, h.fault,
    h.valid]

/-- Behind an instruction that is no branch stands the next one. -/
theorem CoreState.AtExecute.follows (h : d.AtExecute) (noBranch : isCondBranch d.lEX.kind = false) :
    (if d.lD.valid then d.lD.pc else d.pc) = nextPc d.lEX.pc := by
  obtain ⟨-, branch, next⟩ := h.path
  have notTaken : d.lEX.predTaken = false := by
    by_contra taken
    simp [noBranch] at branch
    exact taken branch
  simpa [Latch.predictedNext, notTaken] using next

/-- A kind that does nothing in Memory completes with the state and the result that Execute left. -/
theorem CoreState.arch_of_noAccess (empty : t.lWB.valid = false) (noFault : t.fault.kind = .none)
    (load : isLoad m.kind = false) (store : isStore m.kind = false)
    (x : ∀ q : Reg, u.reg q = if writesRd m.kind = true ∧ m.rd = q then m.result else t.reg q)
    (pc : u.pc = if t.lD.valid then t.lD.pc else t.pc) (flags : u.flags = t.flags) (dmem : u.dmem = t.dmem)
    (halted : u.halted = (t.halted || decide (m.kind = .halt))) (fault : u.fault = t.fault)
    (retired : u.retired = t.retired + 1) : u.arch = (t.passToMEM m).seqView.arch := by
  have noBase : base? m.toRecord = none := by
    unfold base?
    split
    next k => simp [k, isLoad] at load
    next k => simp [k, isStore] at store
    next => rfl
  exact CoreState.arch_of_passed (by simpa using empty) (memStage_of_noAccess rfl load store) noFault
    (by simpa [noBase] using x) pc flags dmem halted fault retired

/-! Kind by kind: the effect of the instruction is the completion of what Execute hands on. -/

/-- The kinds that write a result of Execute to `rd` and go on to the next instruction. -/
def isAlu : Kind → Bool
  | .add | .sub | .mul | .div | .and | .or | .xor | .addl | .subl | .movc => true
  | _ => false

theorem isAlu_facts {k : Kind} (h : isAlu k = true) :
    writesRd k = true ∧ isLoad k = false ∧ isStore k = false ∧ isCondBranch k = false ∧ k ≠ .halt := by
  cases k <;> simp [isAlu] at h <;> simp [writesRd, isLoad, isStore, isCondBranch]

theorem isCondBranch_facts {k : Kind} (h : isCondBranch k = true) :
    writesRd k = false ∧ isLoad k = false ∧ isStore k = false ∧ k ≠ .halt := by
  cases k <;> simp [isCondBranch] at h <;> simp [writesRd, isLoad, isStore]

/-- The kinds that write at most the flags and go on to the next instruction. -/
def writesFlagsOnly : Kind → Bool
  | .cmp | .cml | .nop => true
  | _ => false

theorem writesFlagsOnly_facts {k : Kind} (h : writesFlagsOnly k = true) :
    writesRd k = false ∧ isLoad k = false ∧ isStore k = false ∧ isCondBranch k = false ∧ k ≠ .halt := by
  cases k <;> simp [writesFlagsOnly] at h <;> simp [writesRd, isLoad, isStore, isCondBranch]

theorem CoreState.AtExecute.result_arch (h : d.AtExecute) (alu : isAlu d.lEX.kind = true) (f : Flags) {v w : c.Value}
    (value : v = w) :
    ((d.atEX.setFlags f).finishResult d.lEX.rd v).arch = (exResult w d.lEX (d.setFlags f)).handOn.seqView.arch := by
  obtain ⟨writes, load, store, noBranch, notHalt⟩ := isAlu_facts alu
  subst value
  refine CoreState.arch_of_noAccess h.lWB h.fault load store (fun q => ?_) (h.follows noBranch).symm rfl rfl ?_ rfl rfl
  · simp only [writes, true_and, eq_comm (a := d.lEX.rd)]
    exact CoreState.reg_setReg ..
  · simp [notHalt, CoreState.finishResult]

theorem CoreState.AtExecute.flagged_arch (h : d.AtExecute) (alu : isAlu d.lEX.kind = true) {v w : c.Value}
    (value : v = w) : (d.atEX.finishFlagged d.lEX.rd v).arch = (exFlagged w d.lEX d).handOn.seqView.arch := by
  subst value
  exact h.result_arch alu (Flags.ofResult v) rfl

theorem CoreState.AtExecute.unflagged_arch (h : d.AtExecute) (alu : isAlu d.lEX.kind = true) {v w : c.Value}
    (value : v = w) : (d.atEX.finishResult d.lEX.rd v).arch = (exResult w d.lEX d).handOn.seqView.arch := by
  subst value
  exact h.result_arch alu d.flags rfl

theorem CoreState.AtExecute.flags_arch (h : d.AtExecute) (kind : writesFlagsOnly d.lEX.kind = true) {f g : Flags}
    (value : f = g) :
    (d.atEX.setFlags f).retireNext.arch = (ExOut.pass d.lEX (d.setFlags g)).handOn.seqView.arch := by
  obtain ⟨writes, load, store, noBranch, notHalt⟩ := writesFlagsOnly_facts kind
  subst value
  exact CoreState.arch_of_noAccess h.lWB h.fault load store (fun q => by simp [writes])
    (h.follows noBranch).symm rfl rfl (by simp [notHalt]) rfl rfl

theorem CoreState.AtExecute.halt_arch (h : d.AtExecute) (k : d.lEX.kind = .halt) :
    d.atEX.retireNext.setHalted.arch = (ExOut.pass d.lEX d).handOn.seqView.arch :=
  CoreState.arch_of_noAccess h.lWB h.fault (k ▸ rfl) (k ▸ rfl) (fun q => by simp [k, writesRd])
    (h.follows (k ▸ rfl)).symm rfl rfl (by simp [k]) rfl rfl

/-- A fault in Execute. A branch has trained its entry before it raises. -/
theorem CoreState.AtExecute.raise_arch (h : d.AtExecute) {k : FaultKind} (isFault : k ≠ .none) {i j : c.Value}
    (info : i = j) (back : d.SameBack t) :
    (d.atEX.raise k d.lEX.pc i).arch = (ExOut.raise (t.raise k d.lEX.pc j)).handOn.seqView.arch := by
  subst info
  refine CoreState.arch_of_raised ?_ (memStage_eq_self ?_) isFault back.x.symm rfl back.flags.symm back.dmem.symm
    back.halted.symm rfl back.retired.symm
  · exact (congrArg Latch.valid back.lWB).trans h.lWB
  · exact (congrArg Latch.valid back.lMEM).trans h.lMEM

theorem CoreState.SameBack.refl (s : CoreState c) : s.SameBack s := ⟨rfl, rfl, rfl, rfl, rfl, rfl, rfl, rfl⟩

theorem CoreState.updateHistory_sameBack (s : CoreState c) (i : Slot) (taken : Bool) :
    s.SameBack (s.updateHistory i taken) := ⟨rfl, rfl, rfl, rfl, rfl, rfl, rfl, rfl⟩

/-- A conditional branch goes where the path or the redirect says. -/
theorem CoreState.AtExecute.branch_arch (h : d.AtExecute) (branch : isCondBranch d.lEX.kind = true) (taken : Bool)
    {imm : c.Value} (offset : imm = d.lEX.imm) :
    (d.atEX.branch taken imm).arch = (exBranch taken d.lEX d).handOn.seqView.arch := by
  obtain ⟨writes, load, store, notHalt⟩ := isCondBranch_facts branch
  obtain ⟨-, -, next⟩ := h.path
  subst offset
  have goes {t : CoreState c} {a : c.Value} (back : d.SameBack t) (pc : a = if t.lD.valid then t.lD.pc else t.pc) :
      (d.atEX.retireTo a).arch = (ExOut.pass d.lEX t).handOn.seqView.arch := by
    refine CoreState.arch_of_noAccess (back.lWB ▸ h.lWB) (back.fault ▸ h.fault) load store (fun q => ?_) pc
      back.flags.symm back.dmem.symm ?_ back.fault.symm (congrArg (· + 1) back.retired.symm)
    · simpa [writes] using (CoreState.reg_congr back.x q).symm
    · simpa [notHalt] using back.halted.symm
  have trained : d.SameBack (d.updateHistory d.lEX.btbIdx taken) := d.updateHistory_sameBack ..
  have redirected (a : c.Value) : d.SameBack ((d.updateHistory d.lEX.btbIdx taken).redirect a) :=
    ⟨rfl, rfl, rfl, rfl, rfl, rfl, rfl, rfl⟩
  rcases exBranch_cases taken d.lEX d with ⟨rfl, bad, e⟩ | ⟨rfl, ok, -, e⟩ | ⟨rfl, -, e⟩ | ⟨predicted, ok, e⟩ <;> rw [e]
  · have faults : d.atEX.branch true d.lEX.imm =
        d.atEX.raise .misalignedTarget d.lEX.pc (branchTarget d.lEX.pc d.lEX.imm) := by
      simp [CoreState.branch, CoreState.transfer, bad]
    rw [faults]
    exact h.raise_arch (by simp) rfl trained
  · have jumps : d.atEX.branch true d.lEX.imm = d.atEX.retireTo (branchTarget d.lEX.pc d.lEX.imm) := by
      simp [CoreState.branch, CoreState.transfer, ok]
    rw [jumps]
    exact goes (redirected _) rfl
  · exact goes (redirected _) rfl
  · have follows : d.atEX.branch taken d.lEX.imm = d.atEX.retireTo d.lEX.predictedNext := by
      cases taken with
      | true => simp [CoreState.branch, CoreState.transfer, Latch.predictedNext, ← predicted, ok]
      | false => simp [CoreState.branch, CoreState.retireNext, Latch.predictedNext, ← predicted]
    rw [follows]
    exact goes trained next.symm

theorem CoreState.AtExecute.jump_arch (h : d.AtExecute) (k : d.lEX.kind = .jump) {a : c.Value}
    (target : a = jumpTarget d.lEX.rs1Value d.lEX.imm) :
    (d.atEX.transfer a).arch = (exJump d.lEX d).handOn.seqView.arch := by
  subst target
  unfold CoreState.transfer
  simp only [exJump]
  split
  · exact CoreState.arch_of_noAccess h.lWB h.fault (k ▸ rfl) (k ▸ rfl) (fun q => by simp [k, writesRd]) rfl rfl rfl
      (by simp [k]) rfl rfl
  · exact h.raise_arch (by simp) rfl (.refl d)

theorem CoreState.AtExecute.jalr_arch (h : d.AtExecute) (k : d.lEX.kind = .jalr) {a : c.Value}
    (target : a = jumpTarget d.lEX.rs1Value d.lEX.imm) :
    (if aligned a then (d.atEX.setReg d.lEX.rd (nextPc d.atEX.pc)).retireTo a
      else d.atEX.raise .misalignedTarget d.atEX.pc a).arch = (exJalr d.lEX d).handOn.seqView.arch := by
  subst target
  simp only [exJalr]
  split
  · refine CoreState.arch_of_noAccess h.lWB h.fault (k ▸ rfl) (k ▸ rfl) (fun q => ?_) rfl rfl rfl (by simp [k]) rfl
      rfl
    simp only [k, writesRd, true_and, eq_comm (a := d.lEX.rd)]
    exact CoreState.reg_setReg ..
  · exact h.raise_arch (by simp) rfl (.refl d)

theorem CoreState.AtExecute.div_arch (h : d.AtExecute) (k : d.lEX.kind = .div) :
    (if d.atEX.reg d.lEX.rs2 = 0 then d.atEX.raise .divisionByZero d.atEX.pc (d.atEX.reg d.lEX.rs1)
      else d.atEX.finishFlagged d.lEX.rd (aluDiv (d.atEX.reg d.lEX.rs1) (d.atEX.reg d.lEX.rs2))).arch =
      (exDiv d.lEX d).handOn.seqView.arch := by
  have rs1 : d.atEX.reg d.lEX.rs1 = d.lEX.rs1Value := (h.rs1 (k ▸ rfl)).symm
  have rs2 : d.atEX.reg d.lEX.rs2 = d.lEX.rs2Value := (h.rs2 (k ▸ rfl)).symm
  rw [rs1, rs2]
  unfold exDiv
  split
  · exact h.raise_arch (by simp) rfl (.refl d)
  · exact h.result_arch (k ▸ rfl) _ rfl

/-! Loads and stores: Execute computes the address, Memory makes the access. -/

/-- An access that fails is answered with the fault alone. -/
theorem exec_load_of_outside {rd rs1 : Reg} {imm : Int} {l : Layer}
    (outside : c.dmemSize ≤ (effAddr (s.reg rs1) (immValue c imm)).toNat) :
    exec (.load rd rs1 imm) (s.onLayer l) =
      .next ((s.raiseMemory (effAddr (s.reg rs1) (immValue c imm))).onLayer l) := by
  rw [exec_load, CoreState.memRead_eq_none.mpr outside]

theorem exec_loadp_of_outside {rd rs1 : Reg} {imm : Int} {l : Layer}
    (outside : c.dmemSize ≤ (effAddr (s.reg rs1) (immValue c imm)).toNat) :
    exec (.loadp rd rs1 imm) (s.onLayer l) =
      .next ((s.raiseMemory (effAddr (s.reg rs1) (immValue c imm))).onLayer l) := by
  rw [exec_loadp, CoreState.memRead_eq_none.mpr outside]

theorem exec_store_of_outside {rs1 rs2 : Reg} {imm : Int} {l : Layer}
    (outside : c.dmemSize ≤ (effAddr (s.reg rs2) (immValue c imm)).toNat) :
    exec (.store rs1 rs2 imm) (s.onLayer l) =
      .next ((s.raiseMemory (effAddr (s.reg rs2) (immValue c imm))).onLayer l) := by
  rw [exec_store, CoreState.memWrite_eq_none.mpr outside]

theorem exec_storep_of_outside {rs1 rs2 : Reg} {imm : Int} {l : Layer}
    (outside : c.dmemSize ≤ (effAddr (s.reg rs2) (immValue c imm)).toNat) :
    exec (.storep rs1 rs2 imm) (s.onLayer l) =
      .next ((s.raiseMemory (effAddr (s.reg rs2) (immValue c imm))).onLayer l) := by
  rw [exec_storep, CoreState.memWrite_eq_none.mpr outside]

theorem isLoad_facts {k : Kind} (h : isLoad k = true) :
    writesRd k = true ∧ isCondBranch k = false ∧ k ≠ .halt := by
  cases k <;> simp [isLoad] at h <;> simp [writesRd, isCondBranch]

theorem isStore_facts {k : Kind} (h : isStore k = true) :
    writesRd k = false ∧ isCondBranch k = false ∧ k ≠ .halt := by
  cases k <;> simp [isStore] at h <;> simp [writesRd, isCondBranch]

/-- An access that fails records the fault of the instruction that Execute handed on. -/
theorem CoreState.AtExecute.outside_arch (h : d.AtExecute) {a : c.Value} (memAddr : m.memAddr = a)
    (access : isLoad m.kind = true ∨ isStore m.kind = true) (pc : m.pc = d.lEX.pc) (outside : c.dmemSize ≤ a.toNat) :
    (d.atEX.raiseMemory a).arch = (d.passToMEM m).seqView.arch := by
  subst memAddr
  exact CoreState.arch_of_raised h.lWB (memStage_of_outside (s := d.passToMEM m) rfl access outside) (by simp) rfl
    pc.symm rfl rfl rfl (congrArg (FaultReg.mk _ · _) pc.symm) rfl

/-- A load that is made completes with the cell in `rd`, which wins where it is the base too. -/
theorem CoreState.AtExecute.loaded_arch (h : d.AtExecute) (toRecord : m.toRecord = d.lEX.toRecord)
    (load : isLoad m.kind = true) (inside : m.memAddr.toNat < c.dmemSize)
    (x : ∀ q : Reg, u.reg q = if m.rd = q then readCell d.dmem m.memAddr.toNat
      else if base? m.toRecord = some q then m.baseNew else d.reg q)
    (pc : u.pc = nextPc d.lEX.pc) (flags : u.flags = d.flags) (dmem : u.dmem = d.dmem) (halted : u.halted = d.halted)
    (fault : u.fault = d.fault) (retired : u.retired = d.retired + 1) : u.arch = (d.passToMEM m).seqView.arch := by
  obtain ⟨writes, noBranch, notHalt⟩ := isLoad_facts load
  refine CoreState.arch_of_passed h.lWB (memStage_of_load rfl load inside) h.fault (fun q => ?_)
    (pc.trans (h.follows (toRecord ▸ noBranch)).symm) flags dmem ?_ fault retired
  · simp only [CoreState.passToMEM_lMEM, writes, true_and]
    exact x q
  · simpa [notHalt] using halted

/-- A store that is made completes with its cell written, and its base where it has one. -/
theorem CoreState.AtExecute.stored_arch (h : d.AtExecute) (toRecord : m.toRecord = d.lEX.toRecord)
    (store : isStore m.kind = true) (inside : m.memAddr.toNat < c.dmemSize)
    (x : ∀ q : Reg, u.reg q = if base? m.toRecord = some q then m.baseNew else d.reg q)
    (pc : u.pc = nextPc d.lEX.pc) (flags : u.flags = d.flags)
    (dmem : u.dmem = writeCell d.dmem m.memAddr.toNat m.rs1Value) (halted : u.halted = d.halted)
    (fault : u.fault = d.fault) (retired : u.retired = d.retired + 1) : u.arch = (d.passToMEM m).seqView.arch := by
  obtain ⟨writes, noBranch, notHalt⟩ := isStore_facts store
  refine CoreState.arch_of_passed h.lWB (memStage_of_store rfl store inside) h.fault (fun q => ?_)
    (pc.trans (h.follows (toRecord ▸ noBranch)).symm) flags dmem ?_ fault retired
  · simp only [CoreState.passToMEM_lMEM, writes, Bool.false_eq_true, false_and, if_false]
    exact x q
  · simpa [notHalt] using halted

theorem CoreState.AtExecute.load_arch (h : d.AtExecute) (k : d.lEX.kind = .load) :
    ∃ u : CoreState c, exec (.load d.lEX.rd d.lEX.rs1 d.lEX.imm.toInt) (d.atEX.onLayer .sequential) =
        .next (u.onLayer .sequential) ∧ u.arch = (exLoad d.lEX d).handOn.seqView.arch := by
  have old : d.atEX.reg d.lEX.rs1 = d.lEX.rs1Value := (h.rs1 (k ▸ rfl)).symm
  have address : effAddr (d.atEX.reg d.lEX.rs1) (immValue c d.lEX.imm.toInt) = effAddr d.lEX.rs1Value d.lEX.imm :=
    congrArg₂ effAddr old (immValue_toInt _)
  by_cases inside : (effAddr d.lEX.rs1Value d.lEX.imm).toNat < c.dmemSize
  · refine ⟨_, exec_load_of_inside (address ▸ inside), ?_⟩
    rw [address]
    refine h.loaded_arch rfl (k ▸ rfl) inside (fun q => ?_) rfl rfl rfl rfl rfl rfl
    simp [CoreState.finishResult, k, base?, eq_comm (a := q)]
  · have outside := not_lt.mp inside
    refine ⟨_, exec_load_of_outside (address ▸ outside), ?_⟩
    rw [address]
    exact h.outside_arch rfl (.inl (k ▸ rfl)) rfl outside

theorem CoreState.AtExecute.loadp_arch (h : d.AtExecute) (k : d.lEX.kind = .loadp) :
    ∃ u : CoreState c, exec (.loadp d.lEX.rd d.lEX.rs1 d.lEX.imm.toInt) (d.atEX.onLayer .sequential) =
        .next (u.onLayer .sequential) ∧ u.arch = (exLoadp d.lEX d).handOn.seqView.arch := by
  have old : d.atEX.reg d.lEX.rs1 = d.lEX.rs1Value := (h.rs1 (k ▸ rfl)).symm
  have address : effAddr (d.atEX.reg d.lEX.rs1) (immValue c d.lEX.imm.toInt) = effAddr d.lEX.rs1Value d.lEX.imm :=
    congrArg₂ effAddr old (immValue_toInt _)
  by_cases inside : (effAddr d.lEX.rs1Value d.lEX.imm).toNat < c.dmemSize
  · refine ⟨_, exec_loadp_of_inside (address ▸ inside), ?_⟩
    rw [address, old]
    refine h.loaded_arch rfl (k ▸ rfl) inside (fun q => ?_) rfl rfl rfl rfl rfl rfl
    simp [CoreState.finishResult, k, base?, eq_comm (a := q)]
  · have outside := not_lt.mp inside
    refine ⟨_, exec_loadp_of_outside (address ▸ outside), ?_⟩
    rw [address]
    exact h.outside_arch rfl (.inl (k ▸ rfl)) rfl outside

theorem CoreState.AtExecute.store_arch (h : d.AtExecute) (k : d.lEX.kind = .store) :
    ∃ u : CoreState c, exec (.store d.lEX.rs1 d.lEX.rs2 d.lEX.imm.toInt) (d.atEX.onLayer .sequential) =
        .next (u.onLayer .sequential) ∧ u.arch = (exStore d.lEX d).handOn.seqView.arch := by
  have value : d.atEX.reg d.lEX.rs1 = d.lEX.rs1Value := (h.rs1 (k ▸ rfl)).symm
  have old : d.atEX.reg d.lEX.rs2 = d.lEX.rs2Value := (h.rs2 (k ▸ rfl)).symm
  have address : effAddr (d.atEX.reg d.lEX.rs2) (immValue c d.lEX.imm.toInt) = effAddr d.lEX.rs2Value d.lEX.imm :=
    congrArg₂ effAddr old (immValue_toInt _)
  by_cases inside : (effAddr d.lEX.rs2Value d.lEX.imm).toNat < c.dmemSize
  · refine ⟨_, exec_store_of_inside (address ▸ inside), ?_⟩
    rw [address, value]
    refine h.stored_arch rfl (k ▸ rfl) inside (fun q => ?_) rfl rfl rfl rfl rfl rfl
    simp [CoreState.finishStore, k, base?]
  · have outside := not_lt.mp inside
    refine ⟨_, exec_store_of_outside (address ▸ outside), ?_⟩
    rw [address]
    exact h.outside_arch rfl (.inr (k ▸ rfl)) rfl outside

theorem CoreState.AtExecute.storep_arch (h : d.AtExecute) (k : d.lEX.kind = .storep) :
    ∃ u : CoreState c, exec (.storep d.lEX.rs1 d.lEX.rs2 d.lEX.imm.toInt) (d.atEX.onLayer .sequential) =
        .next (u.onLayer .sequential) ∧ u.arch = (exStorep d.lEX d).handOn.seqView.arch := by
  have value : d.atEX.reg d.lEX.rs1 = d.lEX.rs1Value := (h.rs1 (k ▸ rfl)).symm
  have old : d.atEX.reg d.lEX.rs2 = d.lEX.rs2Value := (h.rs2 (k ▸ rfl)).symm
  have address : effAddr (d.atEX.reg d.lEX.rs2) (immValue c d.lEX.imm.toInt) = effAddr d.lEX.rs2Value d.lEX.imm :=
    congrArg₂ effAddr old (immValue_toInt _)
  by_cases inside : (effAddr d.lEX.rs2Value d.lEX.imm).toNat < c.dmemSize
  · refine ⟨_, exec_storep_of_inside (address ▸ inside), ?_⟩
    rw [address, value, old]
    refine h.stored_arch rfl (k ▸ rfl) inside (fun q => ?_) rfl rfl rfl rfl rfl rfl
    simp [CoreState.finishStore, k, base?, eq_comm (a := q)]
  · have outside := not_lt.mp inside
    refine ⟨_, exec_storep_of_outside (address ▸ outside), ?_⟩
    rw [address]
    exact h.outside_arch rfl (.inr (k ▸ rfl)) rfl outside

/-- The instruction in Execute has on the sequential machine the effect that its completion has on the pipeline. -/
theorem CoreState.AtExecute.exec_arch (h : d.AtExecute) (legal : d.lEX.kind ≠ .invalid) :
    ∃ (i : Instr) (u : CoreState c), d.lEX.toRecord.instr? = some i ∧
      exec i (d.atEX.onLayer .sequential) = .next (u.onLayer .sequential) ∧ u.arch = (exStage d).seqView.arch := by
  have rs1 (reads : readsRs1 d.lEX.kind = true) : d.atEX.reg d.lEX.rs1 = d.lEX.rs1Value := (h.rs1 reads).symm
  have rs2 (reads : readsRs2 d.lEX.kind = true) : d.atEX.reg d.lEX.rs2 = d.lEX.rs2Value := (h.rs2 reads).symm
  have imm : immValue c d.lEX.imm.toInt = d.lEX.imm := immValue_toInt _
  rw [exStage_eq_handOn h.valid]
  unfold exKind
  cases k : d.lEX.kind with
  | add =>
    exact ⟨.add d.lEX.rd d.lEX.rs1 d.lEX.rs2, _, by simp only [Record.instr?, k], exec_add ..,
      h.flagged_arch (k ▸ rfl) (congrArg₂ aluAdd (rs1 (k ▸ rfl)) (rs2 (k ▸ rfl)))⟩
  | sub =>
    exact ⟨.sub d.lEX.rd d.lEX.rs1 d.lEX.rs2, _, by simp only [Record.instr?, k], exec_sub ..,
      h.flagged_arch (k ▸ rfl) (congrArg₂ aluSub (rs1 (k ▸ rfl)) (rs2 (k ▸ rfl)))⟩
  | mul =>
    exact ⟨.mul d.lEX.rd d.lEX.rs1 d.lEX.rs2, _, by simp only [Record.instr?, k], exec_mul ..,
      h.flagged_arch (k ▸ rfl) (congrArg₂ aluMul (rs1 (k ▸ rfl)) (rs2 (k ▸ rfl)))⟩
  | and =>
    exact ⟨.and d.lEX.rd d.lEX.rs1 d.lEX.rs2, _, by simp only [Record.instr?, k], exec_and ..,
      h.unflagged_arch (k ▸ rfl) (congrArg₂ aluAnd (rs1 (k ▸ rfl)) (rs2 (k ▸ rfl)))⟩
  | or =>
    exact ⟨.or d.lEX.rd d.lEX.rs1 d.lEX.rs2, _, by simp only [Record.instr?, k], exec_or ..,
      h.unflagged_arch (k ▸ rfl) (congrArg₂ aluOr (rs1 (k ▸ rfl)) (rs2 (k ▸ rfl)))⟩
  | xor =>
    exact ⟨.xor d.lEX.rd d.lEX.rs1 d.lEX.rs2, _, by simp only [Record.instr?, k], exec_xor ..,
      h.unflagged_arch (k ▸ rfl) (congrArg₂ aluXor (rs1 (k ▸ rfl)) (rs2 (k ▸ rfl)))⟩
  | addl =>
    exact ⟨.addl d.lEX.rd d.lEX.rs1 d.lEX.imm.toInt, _, by simp only [Record.instr?, k], exec_addl ..,
      h.flagged_arch (k ▸ rfl) (congrArg₂ aluAdd (rs1 (k ▸ rfl)) imm)⟩
  | subl =>
    exact ⟨.subl d.lEX.rd d.lEX.rs1 d.lEX.imm.toInt, _, by simp only [Record.instr?, k], exec_subl ..,
      h.flagged_arch (k ▸ rfl) (congrArg₂ aluSub (rs1 (k ▸ rfl)) imm)⟩
  | movc =>
    exact ⟨.movc d.lEX.rd d.lEX.imm.toInt, _, by simp only [Record.instr?, k], exec_movc ..,
      h.unflagged_arch (k ▸ rfl) imm⟩
  | div =>
    exact ⟨.div d.lEX.rd d.lEX.rs1 d.lEX.rs2, _, by simp only [Record.instr?, k], exec_div .., h.div_arch k⟩
  | cmp =>
    exact ⟨.cmp d.lEX.rs1 d.lEX.rs2, _, by simp only [Record.instr?, k], exec_cmp ..,
      h.flags_arch (k ▸ rfl) (congrArg₂ Flags.ofCompare (rs1 (k ▸ rfl)) (rs2 (k ▸ rfl)))⟩
  | cml =>
    exact ⟨.cml d.lEX.rs1 d.lEX.imm.toInt, _, by simp only [Record.instr?, k], exec_cml ..,
      h.flags_arch (k ▸ rfl) (congrArg₂ Flags.ofCompare (rs1 (k ▸ rfl)) imm)⟩
  | nop =>
    exact ⟨.nop, _, by simp only [Record.instr?, k], exec_nop ..,
      h.flags_arch (k ▸ rfl) (g := d.flags) rfl⟩
  | halt =>
    exact ⟨.halt, _, by simp only [Record.instr?, k], exec_halt .., h.halt_arch k⟩
  | bz =>
    exact ⟨.bz d.lEX.imm.toInt, _, by simp only [Record.instr?, k], exec_bz .., h.branch_arch (k ▸ rfl) _ imm⟩
  | bnz =>
    exact ⟨.bnz d.lEX.imm.toInt, _, by simp only [Record.instr?, k], exec_bnz .., h.branch_arch (k ▸ rfl) _ imm⟩
  | bp =>
    exact ⟨.bp d.lEX.imm.toInt, _, by simp only [Record.instr?, k], exec_bp .., h.branch_arch (k ▸ rfl) _ imm⟩
  | bnp =>
    exact ⟨.bnp d.lEX.imm.toInt, _, by simp only [Record.instr?, k], exec_bnp .., h.branch_arch (k ▸ rfl) _ imm⟩
  | bn =>
    exact ⟨.bn d.lEX.imm.toInt, _, by simp only [Record.instr?, k], exec_bn .., h.branch_arch (k ▸ rfl) _ imm⟩
  | bnn =>
    exact ⟨.bnn d.lEX.imm.toInt, _, by simp only [Record.instr?, k], exec_bnn .., h.branch_arch (k ▸ rfl) _ imm⟩
  | jump =>
    exact ⟨.jump d.lEX.rs1 d.lEX.imm.toInt, _, by simp only [Record.instr?, k], exec_jump ..,
      h.jump_arch k (congrArg₂ jumpTarget (rs1 (k ▸ rfl)) imm)⟩
  | jalr =>
    exact ⟨.jalr d.lEX.rd d.lEX.rs1 d.lEX.imm.toInt, _, by simp only [Record.instr?, k], exec_jalr ..,
      h.jalr_arch k (congrArg₂ jumpTarget (rs1 (k ▸ rfl)) imm)⟩
  | load =>
    obtain ⟨u, answer, arch⟩ := h.load_arch k
    exact ⟨_, u, by simp only [Record.instr?, k], answer, arch⟩
  | loadp =>
    obtain ⟨u, answer, arch⟩ := h.loadp_arch k
    exact ⟨_, u, by simp only [Record.instr?, k], answer, arch⟩
  | store =>
    obtain ⟨u, answer, arch⟩ := h.store_arch k
    exact ⟨_, u, by simp only [Record.instr?, k], answer, arch⟩
  | storep =>
    obtain ⟨u, answer, arch⟩ := h.storep_arch k
    exact ⟨_, u, by simp only [Record.instr?, k], answer, arch⟩
  | invalid => exact absurd k legal

end

end Sys2Proof.Machine
end

section
/-! SUPPORT. One tick against one instruction (spec 43_pipeline_stages.md rule R141; 70_reset_and_hazards.md rules
R250, R251). -/

namespace Sys2Proof.Machine

section

variable {c : Config} {s t d : CoreState c}

/-! One tick. -/

/-- Where nothing is past Execute, the sequential machine makes the step that Execute stands for. -/
theorem CoreState.AtExecute.step_arch (h : d.AtExecute) (boot : d.bootProblem = none) (running : d.halted = false) :
    ∃ u : CoreState c, step (d.seqView.onLayer .sequential) = .next (u.onLayer .sequential) ∧
      u.arch = (exStage d).seqView.arch := by
  obtain ⟨record, -⟩ := h.path
  obtain ⟨e, entry, same⟩ := Option.map_eq_some_iff.mp record
  have running' : d.atEX.stopped = false := by simp [CoreState.stopped, CoreState.atEX, running, h.fault]
  rw [h.seqView_eq]
  by_cases legal : d.lEX.kind = .invalid
  · refine ⟨_, step_raises (s := d.atEX) boot running' entry (by rw [same, legal]), ?_⟩
    rw [exStage_eq_handOn h.valid]
    simp only [exKind, legal]
    exact h.raise_arch (by simp) rfl (.refl d)
  · obtain ⟨i, u, instr, answer, arch⟩ := h.exec_arch legal
    exact ⟨u, (step_runs (s := d.atEX) boot running' entry (by rw [same, instr])).trans answer, arch⟩

/-- Unless it raises, Memory hands a `HALT` on. -/
theorem memStage_holdsHalt (empty : s.lWB.valid = false) (noFault : (memStage s).fault.kind = .none) :
    (memStage s).lWB.holdsHalt = s.lMEM.holdsHalt := by
  rcases memStage_latches s with ⟨lMEM, lWB⟩ | ⟨valid, -, -, v, lWB⟩
  · have gone := memStage_lMEM_valid noFault
    rw [lMEM] at gone
    rw [lWB, Latch.holdsHalt_of_invalid empty, Latch.holdsHalt_of_invalid gone]
  · simp [lWB, Latch.holdsHalt, valid]

/-- The sequential machine has stopped at a `HALT` as soon as one is past Execute. -/
theorem CoreState.drained_halted (noFault : s.drained.fault.kind = .none) :
    s.drained.halted = (s.halted || s.lWB.holdsHalt || s.lMEM.holdsHalt) := by
  have ok : (memStage (wbStage s)).fault.kind = .none := s.drained_fault ▸ noFault
  rw [CoreState.drained_eq noFault, wbStage_halted, memStage_holdsHalt wbStage_lWB_valid ok, memStage_halted,
    wbStage_halted, wbStage_lMEM]

/-- An instruction in Execute is not behind a `HALT`. -/
theorem CoreState.PipelineInv.noHalt_of_execute (inv : s.PipelineInv) (valid : s.lEX.valid = true) :
    s.halted = false ∧ s.lWB.holdsHalt = false ∧ s.lMEM.holdsHalt = false := by
  refine ⟨?_, ?_, ?_⟩ <;> by_contra halt <;> rw [Bool.not_eq_false] at halt
  · obtain ⟨-, empty, -⟩ := inv.haltDone halt
    simp [valid] at empty
  · obtain ⟨-, empty, -⟩ := inv.haltWB halt
    simp [valid] at empty
  · obtain ⟨-, empty, -⟩ := inv.haltMEM halt
    simp [valid] at empty

/-- Once the older instructions have completed, the instruction in Execute is there with its operands and its path. -/
theorem CoreState.PipelineInv.drained_atExecute (inv : s.PipelineInv) (valid : s.lEX.valid = true)
    (noFault : s.drained.fault.kind = .none) : s.drained.AtExecute := by
  obtain ⟨⟨path, -⟩, -, -, operands⟩ := CoreState.pipelineInv_iff.mp inv
  obtain ⟨rs1, rs2⟩ := operands valid noFault
  have ok : (memStage (wbStage s)).fault.kind = .none := s.drained_fault ▸ noFault
  have e := CoreState.drained_eq noFault
  have lEX : s.drained.lEX = s.lEX := by simp [e]
  constructor
  case valid => rw [lEX, valid]
  case lMEM => simpa [e] using memStage_lMEM_valid ok
  case lWB => rw [e, wbStage_lWB_valid]
  case fault => exact noFault
  case path =>
    rw [Latch.onPath_congr (s := s) (by simp [e]), lEX]
    simpa [e] using path.execute valid
  case rs1 => rwa [lEX]
  case rs2 => rwa [lEX]

/-- A tick in which nothing executes leaves the sequential state. -/
theorem tick_seqView_arch_of_idle (running : s.stopped = false)
    (idle : ¬(s.lEX.valid = true ∧ s.drained.fault.kind = .none)) : (tick s).seqView.arch = s.seqView.arch := by
  obtain ⟨-, noFault⟩ := CoreState.not_stopped running
  have back : (memStage (wbStage s)).seqView = s.seqView := by
    rw [memStage_seqView wbStage_lWB_valid (by simpa using noFault), wbStage_seqView]
  have empty (ok : (memStage (wbStage s)).fault.kind = .none) : (memStage (wbStage s)).lEX.valid = false := by
    simpa [CoreState.drained_fault, ok] using idle
  rcases tick_cases s with ⟨stopped, -⟩ | ⟨-, -, e⟩ | ⟨-, -, -, e⟩ | ⟨-, -, ok, raised, -⟩ | ⟨-, -, ok, -, e⟩
  · simp [running] at stopped
  · rw [e, CoreState.countCycle_seqView_arch, wbStage_seqView]
  · rw [e, CoreState.countCycle_seqView_arch, back]
  · rw [exStage_eq_self (empty ok)] at raised
    exact absurd ok raised
  · rw [e, CoreState.countCycle_seqView_arch, fetchStage_seqView_arch (drfStage_lD_valid _), exStage_eq_self (empty ok),
      drfStage_seqView_arch (empty ok), back]

/-- A tick in which an instruction executes leaves the sequential state that Execute leaves. -/
theorem tick_seqView_arch_of_execute (inv : s.PipelineInv) (running : s.stopped = false) (valid : s.lEX.valid = true)
    (noFault : s.drained.fault.kind = .none) : (tick s).seqView.arch = (exStage s.drained).seqView.arch := by
  obtain ⟨notHalted, notWB, -⟩ := inv.noHalt_of_execute valid
  rw [CoreState.drained_eq noFault, exStage_wbStage_seqView_arch]
  rcases tick_cases s with ⟨stopped, -⟩ | ⟨-, halted, -⟩ | ⟨-, -, fault, -⟩ | ⟨-, -, -, -, e⟩ | ⟨-, -, -, ok, e⟩
  · simp [running] at stopped
  · simp [wbStage_halted, notHalted, notWB] at halted
  · exact absurd (s.drained_fault ▸ noFault) fault
  · rw [e, CoreState.countCycle_seqView_arch]
  · rw [e, CoreState.countCycle_seqView_arch, fetchStage_seqView_arch (drfStage_lD_valid _),
      drfStage_seqView_arch (exStage_lEX_valid ok)]

/-- Draining leaves the program and what is before Memory, so the drained state stands for what the state stands for. -/
theorem CoreState.drained_seqView (noFault : s.drained.fault.kind = .none) (running : s.fault.kind = .none) :
    s.drained.seqView = s.seqView := by
  rw [CoreState.drained_eq noFault, wbStage_seqView, memStage_seqView wbStage_lWB_valid (by simpa using running),
    wbStage_seqView]

theorem CoreState.bootProblem_congr (h : t.imem = s.imem) : t.bootProblem = s.bootProblem := by
  simp only [CoreState.bootProblem, h]

theorem CoreState.drained_imem (s : CoreState c) : s.drained.imem = s.imem := by
  rcases s.drained_cases with ⟨-, e⟩ | ⟨-, e⟩ <;> simp [e]

end

/-- Settles O54: Writeback, Memory, Decode and Fetch leave the sequential state, and Execute, seen after the older
instructions have completed, makes one step of it. -/
theorem tickRefinesSequentialStep : Obligations.TickRefinesSequentialStep := by
  intro c s boot inv running
  refine ⟨tick s, step_pipeline s boot, ?_⟩
  split
  next executes =>
    obtain ⟨valid, noFault⟩ := executes
    obtain ⟨halted, lWB, lMEM⟩ := inv.noHalt_of_execute valid
    have boot' : s.drained.bootProblem = none := (CoreState.bootProblem_congr s.drained_imem).trans boot
    have running' : s.drained.halted = false := by simp [CoreState.drained_halted noFault, halted, lWB, lMEM]
    obtain ⟨u, answer, arch⟩ := (inv.drained_atExecute valid noFault).step_arch boot' running'
    rw [CoreState.drained_seqView noFault (CoreState.not_stopped running).2] at answer
    exact ⟨u, answer, arch.trans (tick_seqView_arch_of_execute inv running valid noFault).symm⟩
  next idle => exact tick_seqView_arch_of_idle running idle

end Sys2Proof.Machine
end

section
/-! SUPPORT. The driver (spec 43_pipeline_stages.md rule R142; 60_exceptions.md rule R235): a run tick by tick. -/

namespace Sys2Proof.Machine

section

variable {c : Config} {s t : CoreState c} {m n : c.Counter}

/-! The driver. -/

/-- A tick below the limit counts one cycle: the counter does not wrap there. -/
theorem tick_cycles_toNat (running : s.stopped = false) (below : s.cycles < n) :
    (tick s).cycles.toNat = s.cycles.toNat + 1 := by
  obtain ⟨cycles, -⟩ := tickCounts c s running
  have bound := n.isLt
  rw [BitVec.lt_def] at below
  rw [cycles, Nat.mod_eq_of_lt (by omega)]

/-- Below the limit a run of a running machine ticks and goes on. -/
theorem run_tick (running : s.stopped = false) (below : s.cycles < n) : run n s = run n (tick s) := by
  have counted := tick_cycles_toNat running below
  have fuel : n.toNat - s.cycles.toNat = n.toNat - (tick s).cycles.toNat + 1 := by
    rw [BitVec.lt_def] at below
    omega
  rw [run, fuel, driveTicks]
  simp [running, below, run]

/-- A run of a stopped machine, or of one at its limit, is over. -/
theorem run_done (ended : s.stopped = true ∨ n ≤ s.cycles) : run n s = s := by
  unfold run
  cases n.toNat - s.cycles.toNat with
  | zero => rfl
  | succ fuel =>
    have stays : (!s.stopped && decide (s.cycles < n)) = false := by
      rcases ended with stopped | atLimit
      · simp [stopped]
      · simp [BitVec.not_lt.mpr atLimit]
    simp [driveTicks, stays]

/-- What holds of every state in which a run to `n` is over, and passes from the state after a tick below `n` to the
one before it, holds of every state. -/
theorem run_induction {P : CoreState c → Prop} (n : c.Counter)
    (done : ∀ s, s.stopped = true ∨ n ≤ s.cycles → P s)
    (next : ∀ s, s.stopped = false → s.cycles < n → P (tick s) → P s) (s : CoreState c) : P s := by
  by_cases ended : s.stopped = true ∨ n ≤ s.cycles
  · exact done s ended
  · simp only [not_or, Bool.not_eq_true, BitVec.not_le] at ended
    obtain ⟨running, below⟩ := ended
    have counted := tick_cycles_toNat running below
    have less := BitVec.lt_def.mp below
    exact next s running below (run_induction n done next (tick s))
termination_by n.toNat - s.cycles.toNat

end

/-- Settles O33: by induction on what is left to the first limit; a tick below it is one below the second. -/
theorem runIsResumable : Obligations.RunIsResumable := by
  intro c s m n smaller
  induction s using run_induction m with
  | done s ended =>
    rw [run_done ended]
    exact ⟨rfl, ended⟩
  | next s running below resumes =>
    have below' : s.cycles < n := BitVec.lt_def.mpr ((BitVec.lt_def.mp below).trans_le smaller)
    rw [run_tick running below, run_tick running below']
    exact resumes

end Sys2Proof.Machine
end

section
/-! SUPPORT. The tick in which a jump executes (spec 43_pipeline_stages.md rule R160). -/

namespace Sys2Proof.Machine

section

variable {c : Config} {s t : CoreState c}

/-! A redirect. -/

/-- A jump to an aligned target hands its record on and redirects. -/
theorem exStage_of_jump (valid : s.lEX.valid = true) (kind : s.lEX.kind = .jump ∨ s.lEX.kind = .jalr)
    (target : aligned (s.lEX.rs1Value + s.lEX.imm) = true) :
    ∃ l, l.toRecord = s.lEX.toRecord ∧ exStage s = (s.redirect (s.lEX.rs1Value + s.lEX.imm)).passToMEM l := by
  rw [exStage_eq_handOn valid]
  rcases kind with kind | kind
  · exact ⟨_, rfl, by simp [exKind, kind, exJump, jumpTarget, target]⟩
  · exact ⟨{ s.lEX with result := nextPc s.lEX.pc }, rfl, by simp [exKind, kind, exJalr, jumpTarget, target]⟩

/-- Behind a redirect Decode issues nothing, and Fetch consumes the bubble. -/
theorem fetchStage_drfStage_of_bubble (pending : s.redirectPending = true) (empty : s.lD.valid = false) :
    fetchStage (drfStage s) = (s.setStall false).clearBubble.fetchIdle := by
  rw [drfStage_of_invalid empty]
  simp [fetchStage, pending]

/-- A tick in which neither `HALT` retires nor Memory or Execute raises is evaluated whole. -/
theorem tick_of_evaluated (running : s.stopped = false) (notHalted : (wbStage s).halted = false)
    (memOk : (memStage (wbStage s)).fault.kind = .none) (exOk : (exStage (memStage (wbStage s))).fault.kind = .none) :
    tick s = (fetchStage (drfStage (exStage (memStage (wbStage s))))).countCycle := by
  simp [tick, running, notHalted, memOk, exOk]

end

/-- Settles O47: Execute redirects, Decode finds nothing to issue, and Fetch consumes the bubble. -/
theorem jumpTickRedirects : Obligations.JumpTickRedirects := by
  intro c s running notHalted memOk valid kind target
  obtain ⟨l, record, e⟩ := exStage_of_jump (s := memStage (wbStage s)) (by simpa using valid) (by simpa using kind)
    (by simpa using target)
  simp only [memStage_lEX, wbStage_lEX] at record e
  rw [tick_of_evaluated running notHalted memOk (by simpa [e] using memOk), e,
    fetchStage_drfStage_of_bubble (by simp) (by simp)]
  simp [record]

end Sys2Proof.Machine
end

section
/-! SUPPORT. Progress (spec 43_pipeline_stages.md rules R146, R147, R163, R164): from a running state with no stop
pending, the next instruction comes to Execute, and until then the sequential state stays as it is. -/

namespace Sys2Proof.Machine

section

variable {c : Config} {s t : CoreState c} {l : Latch c.xlen}

/-! A running pipeline with no stop pending. -/

/-- The machine runs with the pipeline invariant, and neither a fault nor a `HALT` is pending past Execute. -/
structure CoreState.Ready (s : CoreState c) : Prop where
  inv : s.PipelineInv
  running : s.stopped = false
  noFault : s.drained.fault.kind = .none
  notHalted : s.drained.halted = false

/-- A state that stands for a running sequential machine runs, with no stop pending. -/
theorem CoreState.ready_of_drained (inv : s.PipelineInv) (noFault : s.drained.fault.kind = .none)
    (notHalted : s.drained.halted = false) : s.Ready := by
  refine ⟨inv, ?_, noFault, notHalted⟩
  rw [CoreState.drained_halted noFault] at notHalted
  simp only [Bool.or_eq_false_iff] at notHalted
  simp [CoreState.stopped, notHalted, (CoreState.drained_fault_none.mp noFault).1]

theorem CoreState.ready_of_arch (inv : t.PipelineInv) (arch : t.seqView.arch = s.seqView.arch)
    (noFault : s.drained.fault.kind = .none) (notHalted : s.drained.halted = false) : t.Ready := by
  have fault : t.drained.fault = s.drained.fault := congrArg Arch.fault arch
  have halted : t.drained.halted = s.drained.halted := congrArg Arch.halted arch
  exact CoreState.ready_of_drained inv (by rw [fault, noFault]) (by rw [halted, notHalted])

theorem CoreState.Ready.next_eq_front (h : s.Ready) : s.nextToExecute = s.front := by
  simp [CoreState.nextToExecute_eq, h.noFault]

/-- Only a `HALT` past Decode disables fetching, and with nothing in Execute it would be pending. -/
theorem CoreState.Ready.fetchEnabled (h : s.Ready) (lEX : s.lEX.valid = false) : s.fetchEnabled = true := by
  have noHalt := h.notHalted
  rw [CoreState.drained_halted h.noFault] at noHalt
  simp only [Bool.or_eq_false_iff] at noHalt
  by_contra disabled
  simpa [noHalt, Latch.holdsHalt_of_invalid lEX] using h.inv.fetchOff (by simpa using disabled)

/-- With nothing in Execute a tick goes on to Decode and Fetch. -/
theorem CoreState.Ready.tick_eq (h : s.Ready) (lEX : s.lEX.valid = false) :
    tick s = (fetchStage (drfStage (memStage (wbStage s)))).countCycle := by
  have noHalt := h.notHalted
  rw [CoreState.drained_halted h.noFault] at noHalt
  simp only [Bool.or_eq_false_iff] at noHalt
  have memOk : (memStage (wbStage s)).fault.kind = .none := s.drained_fault ▸ h.noFault
  have idle : exStage (memStage (wbStage s)) = memStage (wbStage s) := exStage_eq_self (by simpa using lEX)
  rw [tick_of_evaluated h.running (by simp [wbStage_halted, noHalt]) memOk (by rwa [idle]), idle]

/-- With nothing in Execute a tick leaves the sequential state, and with it the readiness; nothing goes to Memory. -/
theorem CoreState.Ready.tick_ready (h : s.Ready) (lEX : s.lEX.valid = false) :
    (tick s).Ready ∧ (tick s).seqView.arch = s.seqView.arch ∧ (tick s).lMEM.valid = false := by
  have arch := tick_seqView_arch_of_idle h.running (by simp [lEX])
  refine ⟨CoreState.ready_of_arch (tickKeepsPipelineInv c s h.inv) arch h.noFault h.notHalted, arch, ?_⟩
  simpa [h.tick_eq lEX] using memStage_lMEM_valid (s.drained_fault ▸ h.noFault)

/-! The way to Execute. -/

/-- Decode need not stall where nothing is past it. -/
theorem CoreState.mustStall_of_empty (board : s.ScoreboardInv) (lEX : s.lEX.valid = false) (lMEM : s.lMEM.valid = false)
    (lWB : s.lWB.valid = false) : s.mustStall l = false := by
  have free (r : Reg) : s.busyBit r = false :=
    board.busyBit_of_no_writer (CoreState.writersInFlight_of_empty lEX lMEM lWB r)
  cases strategy : c.strategy <;> simp [CoreState.mustStall, strategy, free, lMEM]

/-- The instruction to execute next waits in Decode, and nothing is in Execute or Memory. -/
structure CoreState.Waiting (s : CoreState c) : Prop where
  lD : s.lD.valid = true
  lEX : s.lEX.valid = false
  lMEM : s.lMEM.valid = false

/-- Nothing that can make it wait is left after Writeback. -/
theorem CoreState.Waiting.issues (h : s.Ready) (waiting : s.Waiting) : (tick s).lEX.valid = true := by
  obtain ⟨lD, lEX, lMEM⟩ := waiting
  have alone : memStage (wbStage s) = wbStage s := memStage_eq_self (by simpa using lMEM)
  have board : ((wbStage s).setStall false).allocateBranch.ScoreboardInv :=
    (wbStage_scoreboardInv h.inv.scoreboard).of_kept (by simp) (by simp) (by simp) (by simp)
  have noStall := CoreState.mustStall_of_empty (l := ((wbStage s).setStall false).allocateBranch.lD) board
    (by simpa using lEX) (by simpa using lMEM) (by simpa using wbStage_lWB_valid)
  rw [h.tick_eq lEX, alone, CoreState.countCycle_lEX, fetchStage_lEX]
  rcases drfStage_cases (wbStage s) with ⟨empty, -⟩ | ⟨-, ⟨stalls, -⟩ | ⟨-, e⟩⟩
  · simp [lD] at empty
  · simp [noStall] at stalls
  · simp [e]

/-- An instruction in Decode issues, or waits there while nothing follows into Execute. -/
theorem CoreState.Ready.issues_or_waits (h : s.Ready) (lEX : s.lEX.valid = false) (lD : s.lD.valid = true) :
    (tick s).lEX.valid = true ∨ (tick s).Waiting := by
  obtain ⟨-, -, lMEM⟩ := h.tick_ready lEX
  have e := h.tick_eq lEX
  rcases drfStage_cases (memStage (wbStage s)) with ⟨empty, -⟩ | ⟨-, ⟨-, stalls⟩ | ⟨-, issues⟩⟩
  · simp [lD] at empty
  · obtain ⟨kept, -⟩ := fetchStage_of_stall (s := drfStage (memStage (wbStage s))) (by simp [stalls])
    rw [stalls] at kept
    exact .inr ⟨by simp [e, kept, stalls, lD], by simp [e, stalls, lEX], lMEM⟩
  · exact .inl (by simp [e, issues])

/-- Where nothing is in Decode, the instruction at `pc` is fetched. -/
theorem CoreState.Ready.fetches (h : s.Ready) (lEX : s.lEX.valid = false) (lD : s.lD.valid = false)
    (entry : (s.entryAt s.nextToExecute).isSome = true) : (tick s).Waiting := by
  obtain ⟨-, -, lMEM⟩ := h.tick_ready lEX
  have pc : s.nextToExecute = s.pc := by simp [h.next_eq_front, CoreState.front, lEX, lD]
  have e := h.tick_eq lEX
  rw [drfStage_of_invalid (by simpa using lD)] at e
  obtain ⟨a, found⟩ := Option.isSome_iff_exists.mp entry
  rw [pc] at found
  have found' : ((memStage (wbStage s)).setStall false).entryAt s.pc = some a :=
    (CoreState.entryAt_congr (by simp) _).trans found
  rcases fetchStage_cases ((memStage (wbStage s)).setStall false) with ⟨pending, -⟩ | ⟨-, off | noEntry, -⟩ |
    ⟨_, -, -, -, stall, -⟩ | ⟨_, -, -, -, -, passed⟩
  · simp [h.inv.noBubble] at pending
  · simp [h.fetchEnabled lEX] at off
  · simp [found'] at noEntry
  · simp at stall
  · exact ⟨by simp [e, passed], by simp [e, lEX], lMEM⟩

/-- The next instruction comes to Execute, and until it is there the sequential state does not change. -/
theorem CoreState.Ready.reaches_execute (h : s.Ready) (entry : (s.entryAt s.nextToExecute).isSome = true) :
    ∃ k, k ≤ 2 ∧ (Nat.iterate tick k s).Ready ∧ (Nat.iterate tick k s).lEX.valid = true ∧
      (Nat.iterate tick k s).seqView.arch = s.seqView.arch := by
  by_cases lEX : s.lEX.valid = true
  · exact ⟨0, by omega, h, lEX, rfl⟩
  rw [Bool.not_eq_true] at lEX
  obtain ⟨h', arch, -⟩ := h.tick_ready lEX
  have later (waiting : (tick s).Waiting) :
      ∃ k, k ≤ 2 ∧ (Nat.iterate tick k s).Ready ∧ (Nat.iterate tick k s).lEX.valid = true ∧
        (Nat.iterate tick k s).seqView.arch = s.seqView.arch := by
    obtain ⟨h'', arch', -⟩ := h'.tick_ready waiting.lEX
    exact ⟨2, le_rfl, h'', waiting.issues h', arch'.trans arch⟩
  by_cases lD : s.lD.valid = true
  · rcases h.issues_or_waits lEX lD with issued | waiting
    · exact ⟨1, by omega, h', issued, arch⟩
    · exact later waiting
  · exact later (h.fetches lEX (by simpa using lD) entry)

end

/-- Settles O55: two ticks are enough. -/
theorem executeWithinThreeTicks : Obligations.ExecuteWithinThreeTicks := by
  intro c s inv running noFault notHalted entry
  have h : s.Ready := ⟨inv, running, noFault, notHalted⟩
  obtain ⟨k, bound, h', valid, arch⟩ := h.reaches_execute entry
  have next : (Nat.iterate tick k s).nextToExecute = s.nextToExecute := congrArg Arch.pc arch
  refine ⟨k, by omega, valid, ?_, h'.running⟩
  rw [← next, h'.next_eq_front, CoreState.front, if_pos valid]

end Sys2Proof.Machine
end

section
/-! SUPPORT. The sequential machine (spec 70_reset_and_hazards.md rules R250, R251): an instruction sees the
architectural state alone, and a step idles, completes an instruction, or records a fault. -/

namespace Sys2Proof.Machine

section

variable {c : Config} {s t u v w : CoreState c} {l : Layer}

/-! An instruction sees the architectural state alone. -/

/-- `w` with the architectural state of `s`. -/
def CoreState.withRest (s w : CoreState c) : CoreState c :=
  { w with x := s.x, pc := s.pc, flags := s.flags, dmem := s.dmem, halted := s.halted, fault := s.fault,
           retired := s.retired }

theorem CoreState.eq_withRest (arch : t.arch = s.arch) : t = s.withRest t := by
  simp only [CoreState.arch, Arch.mk.injEq] at arch
  obtain ⟨x, pc, flags, dmem, halted, fault, retired⟩ := arch
  simp [CoreState.withRest, ← x, ← pc, ← flags, ← dmem, ← halted, ← fault, ← retired]

theorem CoreState.transfer_withRest (s w : CoreState c) (a : c.Value) :
    (s.withRest w).transfer a = (s.transfer a).withRest w := by
  unfold CoreState.transfer
  split <;> rfl

theorem CoreState.branch_withRest (s w : CoreState c) (taken : Bool) (imm : c.Value) :
    (s.withRest w).branch taken imm = (s.branch taken imm).withRest w := by
  unfold CoreState.branch
  split
  · exact CoreState.transfer_withRest ..
  · rfl

/-- An answer with an equal core. -/
theorem next_onLayer_congr (l : Layer) (h : t = s) :
    (.next (t.onLayer l) : Host.Outcome State Fault Refusal) = .next (s.onLayer l) := by rw [h]

/-- The instruction does to `s` what it does to any core with the architectural state of `s`. -/
theorem exec_withRest (i : Instr) (s w : CoreState c) (l : Layer) :
    ∃ u : CoreState c, exec i (s.onLayer l) = .next (u.onLayer l) ∧
      exec i ((s.withRest w).onLayer l) = .next ((u.withRest w).onLayer l) := by
  cases i with
  | add | sub | mul | addl | subl | and | or | xor | movc | cmp | cml | nop | halt => exact ⟨_, rfl, rfl⟩
  | bz | bnz | bp | bnp | bn | bnn => exact ⟨_, rfl, next_onLayer_congr l (s.branch_withRest w ..)⟩
  | jump => exact ⟨_, rfl, next_onLayer_congr l (s.transfer_withRest w _)⟩
  | div rd rs1 rs2 =>
    refine ⟨_, exec_div .., (exec_div ..).trans (next_onLayer_congr l ?_)⟩
    change (if s.reg rs2 = 0 then _ else _) = _
    split <;> rfl
  | jalr rd rs1 imm =>
    cases target : aligned (jumpTarget (s.reg rs1) (immValue c imm)) with
    | true => exact ⟨_, exec_jalr_of_aligned target, exec_jalr_of_aligned (s := s.withRest w) target⟩
    | false => exact ⟨_, exec_jalr_of_misaligned target, exec_jalr_of_misaligned (s := s.withRest w) target⟩
  | load rd rs1 imm =>
    rcases lt_or_ge (effAddr (s.reg rs1) (immValue c imm)).toNat c.dmemSize with inside | outside
    · exact ⟨_, exec_load_of_inside inside, exec_load_of_inside (s := s.withRest w) inside⟩
    · exact ⟨_, exec_load_of_outside outside, exec_load_of_outside (s := s.withRest w) outside⟩
  | loadp rd rs1 imm =>
    rcases lt_or_ge (effAddr (s.reg rs1) (immValue c imm)).toNat c.dmemSize with inside | outside
    · exact ⟨_, exec_loadp_of_inside inside, exec_loadp_of_inside (s := s.withRest w) inside⟩
    · exact ⟨_, exec_loadp_of_outside outside, exec_loadp_of_outside (s := s.withRest w) outside⟩
  | store rs1 rs2 imm =>
    rcases lt_or_ge (effAddr (s.reg rs2) (immValue c imm)).toNat c.dmemSize with inside | outside
    · exact ⟨_, exec_store_of_inside inside, exec_store_of_inside (s := s.withRest w) inside⟩
    · exact ⟨_, exec_store_of_outside outside, exec_store_of_outside (s := s.withRest w) outside⟩
  | storep rs1 rs2 imm =>
    rcases lt_or_ge (effAddr (s.reg rs2) (immValue c imm)).toNat c.dmemSize with inside | outside
    · exact ⟨_, exec_storep_of_inside inside, exec_storep_of_inside (s := s.withRest w) inside⟩
    · exact ⟨_, exec_storep_of_outside outside, exec_storep_of_outside (s := s.withRest w) outside⟩

/-! How an instruction ends. -/

/-- The instruction completed and was counted, or it recorded a fault. -/
def CoreState.EndsAs (s t : CoreState c) : Prop :=
  (t.fault = s.fault ∧ t.retired = s.retired + 1) ∨ (t.fault.kind ≠ .none ∧ t.halted = s.halted)

theorem CoreState.transfer_endsAs (s : CoreState c) (a : c.Value) : s.EndsAs (s.transfer a) := by
  unfold CoreState.transfer
  split
  · exact .inl ⟨rfl, rfl⟩
  · exact .inr ⟨by simp, rfl⟩

theorem CoreState.branch_endsAs (s : CoreState c) (taken : Bool) (imm : c.Value) : s.EndsAs (s.branch taken imm) := by
  unfold CoreState.branch
  split
  · exact s.transfer_endsAs _
  · exact .inl ⟨rfl, rfl⟩

theorem CoreState.raise_endsAs (s : CoreState c) {k : FaultKind} (isFault : k ≠ .none) (p i : c.Value) :
    s.EndsAs (s.raise k p i) := .inr ⟨isFault, rfl⟩

theorem exec_endsAs (i : Instr) (s : CoreState c) (l : Layer) :
    ∃ u : CoreState c, exec i (s.onLayer l) = .next (u.onLayer l) ∧ s.EndsAs u := by
  cases i with
  | add | sub | mul | addl | subl | and | or | xor | movc | cmp | cml | nop | halt => exact ⟨_, rfl, .inl ⟨rfl, rfl⟩⟩
  | bz | bnz | bp | bnp | bn | bnn => exact ⟨_, rfl, s.branch_endsAs ..⟩
  | jump => exact ⟨_, rfl, s.transfer_endsAs _⟩
  | div =>
    refine ⟨_, exec_div .., ?_⟩
    split
    · exact s.raise_endsAs (by simp) ..
    · exact .inl ⟨rfl, rfl⟩
  | jalr =>
    refine ⟨_, exec_jalr .., ?_⟩
    split
    · exact .inl ⟨rfl, rfl⟩
    · exact s.raise_endsAs (by simp) ..
  | load rd rs1 imm =>
    rcases lt_or_ge (effAddr (s.reg rs1) (immValue c imm)).toNat c.dmemSize with inside | outside
    · exact ⟨_, exec_load_of_inside inside, .inl ⟨rfl, rfl⟩⟩
    · exact ⟨_, exec_load_of_outside outside, s.raise_endsAs (by simp) ..⟩
  | loadp rd rs1 imm =>
    rcases lt_or_ge (effAddr (s.reg rs1) (immValue c imm)).toNat c.dmemSize with inside | outside
    · exact ⟨_, exec_loadp_of_inside inside, .inl ⟨rfl, rfl⟩⟩
    · exact ⟨_, exec_loadp_of_outside outside, s.raise_endsAs (by simp) ..⟩
  | store rs1 rs2 imm =>
    rcases lt_or_ge (effAddr (s.reg rs2) (immValue c imm)).toNat c.dmemSize with inside | outside
    · exact ⟨_, exec_store_of_inside inside, .inl ⟨rfl, rfl⟩⟩
    · exact ⟨_, exec_store_of_outside outside, s.raise_endsAs (by simp) ..⟩
  | storep rs1 rs2 imm =>
    rcases lt_or_ge (effAddr (s.reg rs2) (immValue c imm)).toNat c.dmemSize with inside | outside
    · exact ⟨_, exec_storep_of_inside inside, .inl ⟨rfl, rfl⟩⟩
    · exact ⟨_, exec_storep_of_outside outside, s.raise_endsAs (by simp) ..⟩

/-! A step of the sequential machine. -/

/-- One step of the sequential machine from `s` to `t`. -/
def CoreState.SeqTo (s t : CoreState c) : Prop := step (s.onLayer .sequential) = .next (t.onLayer .sequential)

theorem CoreState.SeqTo.unique (h : s.SeqTo t) (h' : s.SeqTo u) : t = u := by
  have e := h.symm.trans h'
  simpa using e

/-- The machine is stopped, or there is no instruction at `pc`. -/
def CoreState.Idle (s : CoreState c) : Prop := s.stopped = true ∨ s.entryAt s.pc = none

/-- A step stays where the machine idles, and else ends as an instruction does. -/
theorem CoreState.SeqTo.cases (boot : s.bootProblem = none) (h : s.SeqTo t) :
    (s.Idle ∧ t = s) ∨ (¬s.Idle ∧ s.EndsAs t) := by
  unfold CoreState.SeqTo at h
  rw [step_sequential s boot] at h
  rcases seqStep_cases s .sequential with ⟨stopped, e⟩ | ⟨-, noEntry, e⟩ | ⟨_, i, running, entry, -, e⟩ |
    ⟨_, running, entry, -, e⟩ <;> rw [h] at e
  · exact .inl ⟨.inl stopped, by simpa using e⟩
  · exact .inl ⟨.inr noEntry, by simpa using e⟩
  · obtain ⟨u, answer, ends⟩ := exec_endsAs i s .sequential
    obtain rfl : t = u := by simpa using e.trans answer
    exact .inr ⟨by simp [CoreState.Idle, running, entry], ends⟩
  · obtain rfl : t = s.raise .invalidOpcode s.pc 0 := by simpa using e
    exact .inr ⟨by simp [CoreState.Idle, running, entry], s.raise_endsAs (by simp) ..⟩

theorem CoreState.SeqTo.imem (h : s.SeqTo t) : t.imem = s.imem := by
  obtain ⟨u, e, data⟩ := step_dataStep h
  obtain rfl : t = u := by simpa using e
  exact data.imem

theorem seqStep_withRest (imem : w.imem = s.imem) (l : Layer) :
    ∃ u : CoreState c, seqStep (s.onLayer l) = .next (u.onLayer l) ∧
      seqStep ((s.withRest w).onLayer l) = .next ((u.withRest w).onLayer l) := by
  have stopped : (s.withRest w).stopped = s.stopped := rfl
  have entry : (s.withRest w).entryAt (s.withRest w).pc = s.entryAt s.pc := CoreState.entryAt_congr imem s.pc
  rcases seqStep_cases s l with ⟨h, e⟩ | ⟨h, noEntry, e⟩ | ⟨a, i, h, found, instr, e⟩ | ⟨a, h, found, noInstr, e⟩
  · exact ⟨s, e, by simp [seqStep, stopped, h]⟩
  · exact ⟨s, e, by simp [seqStep, stopped, h, entry, noEntry]⟩
  · obtain ⟨u, answer, answer'⟩ := exec_withRest i s w l
    exact ⟨u, e.trans answer, by simpa [seqStep, stopped, h, entry, found, instr] using answer'⟩
  · refine ⟨_, e, ?_⟩
    simp only [seqStep, CoreState.onLayer_core, CoreState.onLayer_config, stopped, h, entry, found, noInstr]
    rfl

/-- Two cores with one program and one architectural state go to two such cores. -/
theorem CoreState.SeqTo.of_arch (boot : s.bootProblem = none) (h : s.SeqTo u) (imem : t.imem = s.imem)
    (arch : t.arch = s.arch) : ∃ v, t.SeqTo v ∧ v.arch = u.arch := by
  have boot' : t.bootProblem = none := (CoreState.bootProblem_congr imem).trans boot
  obtain ⟨u', answer, answer'⟩ := seqStep_withRest imem .sequential
  rw [← CoreState.eq_withRest arch] at answer'
  obtain rfl : u = u' := h.unique ((step_sequential s boot).trans answer)
  exact ⟨u.withRest t, (step_sequential t boot').trans answer', rfl⟩

end

end Sys2Proof.Machine
end

section
/-! SUPPORT. Whole runs (spec 60_exceptions.md rules R221, R230; 70_reset_and_hazards.md rule R250): each machine
comes to every state of the other, and the pipeline stops where the sequential machine does. -/

namespace Sys2Proof.Machine

section

variable {c : Config} {s t u v : CoreState c} {n k : Nat}

/-! Runs. -/

theorem stepN_succ (n : Nat) {a b : State} :
    stepN (n + 1) a = some b ↔ ∃ m, stepN n a = some m ∧ step m = .next b := by
  induction n generalizing a with
  | zero => cases h : step a <;> simp [stepN, h]
  | succ n ih =>
    rw [stepN]
    cases h : step a with
    | next a' => simp only [stepN, h, ← ih]
    | fault | refused => simp [stepN, h]

theorem stepN_onLayer {l : Layer} {b : State} (h : stepN n (s.onLayer l) = some b) :
    ∃ u : CoreState c, b = u.onLayer l ∧ u.imem = s.imem := by
  induction n generalizing b with
  | zero => exact ⟨s, by simpa [stepN] using h.symm, rfl⟩
  | succ n ih =>
    obtain ⟨m, run, last⟩ := (stepN_succ n).mp h
    obtain ⟨u, rfl, imem⟩ := ih run
    obtain ⟨t, e, data⟩ := step_dataStep last
    exact ⟨t, e, data.imem.trans imem⟩

/-- The sequential machine goes from `s` to `u` in `n` steps. -/
def CoreState.SeqRun (n : Nat) (s u : CoreState c) : Prop :=
  stepN n (s.onLayer .sequential) = some (u.onLayer .sequential)

theorem CoreState.seqRun_zero : s.SeqRun 0 u ↔ u = s := by
  simp [CoreState.SeqRun, stepN, eq_comm]

theorem CoreState.seqRun_succ : s.SeqRun (n + 1) v ↔ ∃ u, s.SeqRun n u ∧ u.SeqTo v := by
  constructor
  · intro h
    obtain ⟨m, run, last⟩ := (stepN_succ n).mp h
    obtain ⟨u, rfl, -⟩ := stepN_onLayer run
    exact ⟨u, run, last⟩
  · rintro ⟨u, run, last⟩
    exact (stepN_succ n).mpr ⟨_, run, last⟩

theorem CoreState.SeqRun.imem (h : s.SeqRun n u) : u.imem = s.imem := by
  obtain ⟨t, e, imem⟩ := stepN_onLayer h
  obtain rfl : u = t := by simpa using e
  exact imem

theorem iterate_tick_imem (k : Nat) (s : CoreState c) : (Nat.iterate tick k s).imem = s.imem := by
  induction k with
  | zero => rfl
  | succ k ih => rw [Function.iterate_succ_apply', tick_imem, ih]

/-- On the pipeline a run of a core that may be started is its ticks. -/
theorem stepN_pipeline (boot : s.bootProblem = none) (k : Nat) :
    stepN k (s.onLayer .pipeline) = some ((Nat.iterate tick k s).onLayer .pipeline) := by
  induction k with
  | zero => rfl
  | succ k ih =>
    have boot' := (CoreState.bootProblem_congr (iterate_tick_imem k s)).trans boot
    rw [stepN_succ, Function.iterate_succ_apply']
    exact ⟨_, ih, step_pipeline _ boot'⟩

/-- The sequential machine has counted its steps, as long as it runs and has an instruction to run. -/
theorem CoreState.SeqRun.retired (boot : s.bootProblem = none) (h : s.SeqRun n u) (busy : ¬u.Idle) :
    u.retired = s.retired + BitVec.ofNat c.counterBits n := by
  induction n generalizing u with
  | zero =>
    rw [CoreState.seqRun_zero] at h
    simp [h]
  | succ n ih =>
    obtain ⟨w, run, last⟩ := CoreState.seqRun_succ.mp h
    have boot' := (CoreState.bootProblem_congr run.imem).trans boot
    rcases last.cases boot' with ⟨idle, rfl⟩ | ⟨busy', ⟨-, counted⟩ | ⟨fault, -⟩⟩
    · exact absurd idle busy
    · rw [counted, ih run busy', BitVec.ofNat_add, BitVec.add_assoc]
      rfl
    · exact absurd (.inl (by simp [CoreState.stopped, fault])) busy

/-! The pipeline against the sequential machine, tick by tick. -/

/-- Some ticks lead from `s` to `t`. -/
def CoreState.Reaches (s t : CoreState c) : Prop := ∃ k, Nat.iterate tick k s = t

theorem CoreState.Reaches.refl (s : CoreState c) : s.Reaches s := ⟨0, rfl⟩

theorem CoreState.Reaches.trans (h : s.Reaches t) (h' : t.Reaches u) : s.Reaches u := by
  obtain ⟨j, rfl⟩ := h
  obtain ⟨k, rfl⟩ := h'
  exact ⟨k + j, Function.iterate_add_apply ..⟩

theorem CoreState.reaches_tick (s : CoreState c) : s.Reaches (tick s) := ⟨1, rfl⟩

theorem CoreState.Reaches.imem (h : s.Reaches t) : t.imem = s.imem := by
  obtain ⟨k, rfl⟩ := h
  exact iterate_tick_imem k s

/-- What every tick keeps holds of every state reached. -/
theorem CoreState.Reaches.keeps {P : CoreState c → Prop} (kept : ∀ s, P s → P (tick s)) (h : s.Reaches t)
    (start : P s) : P t := by
  obtain ⟨k, rfl⟩ := h
  induction k with
  | zero => exact start
  | succ k ih =>
    rw [Function.iterate_succ_apply']
    exact kept _ ih

theorem CoreState.PipelineInv.of_reaches (inv : s.PipelineInv) (h : s.Reaches t) : t.PipelineInv :=
  h.keeps (tickKeepsPipelineInv c) inv

/-- A tick in which an instruction executes is a step of the sequential machine from any core in the same state. -/
theorem CoreState.Ready.tick_of_execute (h : s.Ready) (boot : s.bootProblem = none) (valid : s.lEX.valid = true)
    (imem : u.imem = s.imem) (arch : s.seqView.arch = u.arch) : ∃ v, u.SeqTo v ∧ (tick s).seqView.arch = v.arch := by
  obtain ⟨t, answer, refines⟩ := tickRefinesSequentialStep c s boot h.inv h.running
  rw [step_pipeline s boot] at answer
  obtain rfl : tick s = t := by simpa using answer
  rw [if_pos ⟨valid, h.noFault⟩] at refines
  obtain ⟨w, stepped, same⟩ := refines
  have program : s.seqView.imem = s.imem := s.drained_imem
  obtain ⟨v, stepped', same'⟩ := CoreState.SeqTo.of_arch (s := s.seqView) (t := u)
    ((CoreState.bootProblem_congr program).trans boot) stepped (imem.trans program.symm) arch.symm
  exact ⟨v, stepped', same.symm.trans same'.symm⟩

/-- A pipeline that stands for a running core is ready. -/
theorem CoreState.ready_of_running (inv : s.PipelineInv) (arch : s.seqView.arch = u.arch)
    (running : u.stopped = false) : s.Ready := by
  obtain ⟨notHalted, noFault⟩ := CoreState.not_stopped running
  have fault : s.drained.fault = u.fault := congrArg Arch.fault arch
  have halted : s.drained.halted = u.halted := congrArg Arch.halted arch
  exact CoreState.ready_of_drained inv (by rw [fault, noFault]) (by rw [halted, notHalted])

/-- Every step of the sequential machine is made by the pipeline. -/
theorem CoreState.SeqTo.reached (boot : s.bootProblem = none) (inv : s.PipelineInv) (imem : u.imem = s.imem)
    (arch : s.seqView.arch = u.arch) (h : u.SeqTo v) : ∃ t, s.Reaches t ∧ t.seqView.arch = v.arch := by
  rcases h.cases ((CoreState.bootProblem_congr imem).trans boot) with ⟨-, rfl⟩ | ⟨busy, -⟩
  · exact ⟨s, .refl s, arch⟩
  · simp only [CoreState.Idle, not_or, Bool.not_eq_true] at busy
    obtain ⟨running, found⟩ := busy
    have pc : s.nextToExecute = u.pc := congrArg Arch.pc arch
    have entry : (s.entryAt s.nextToExecute).isSome = true := by
      rw [pc, ← CoreState.entryAt_congr imem]
      exact Option.isSome_iff_ne_none.mpr found
    obtain ⟨k, -, ready, valid, kept⟩ := (CoreState.ready_of_running inv arch running).reaches_execute entry
    have program := iterate_tick_imem k s
    obtain ⟨w, stepped, arch'⟩ := ready.tick_of_execute ((CoreState.bootProblem_congr program).trans boot) valid
      (imem.trans program.symm) (kept.trans arch)
    obtain rfl : v = w := h.unique stepped
    exact ⟨_, CoreState.Reaches.trans ⟨k, rfl⟩ (CoreState.reaches_tick _), arch'⟩

/-- The pipeline comes to stand for every state of the sequential run. -/
theorem CoreState.SeqRun.reached (boot : s.bootProblem = none) (inv : s.PipelineInv) (start : s.seqView.arch = s.arch)
    (h : s.SeqRun n u) : ∃ t, s.Reaches t ∧ t.seqView.arch = u.arch := by
  induction n generalizing u with
  | zero =>
    rw [CoreState.seqRun_zero] at h
    exact ⟨s, .refl s, h ▸ start⟩
  | succ n ih =>
    obtain ⟨w, run, last⟩ := CoreState.seqRun_succ.mp h
    obtain ⟨t, reached, arch⟩ := ih run
    obtain ⟨t', reached', arch'⟩ := last.reached ((CoreState.bootProblem_congr reached.imem).trans boot)
      (inv.of_reaches reached) (run.imem.trans reached.imem.symm) arch
    exact ⟨t', reached.trans reached', arch'⟩

/-- While the sequential machine never stops, every state the pipeline reaches stands for one of its run. -/
theorem CoreState.Reaches.follows (boot : s.bootProblem = none) (inv : s.PipelineInv) (start : s.seqView.arch = s.arch)
    (endless : ∀ n u, s.SeqRun n u → u.stopped = false) (h : s.Reaches t) :
    ∃ n u, s.SeqRun n u ∧ t.seqView.arch = u.arch := by
  obtain ⟨k, rfl⟩ := h
  induction k with
  | zero => exact ⟨0, s, CoreState.seqRun_zero.mpr rfl, start⟩
  | succ k ih =>
    rw [Function.iterate_succ_apply']
    obtain ⟨n, u, run, arch⟩ := ih
    have reached : s.Reaches (Nat.iterate tick k s) := ⟨k, rfl⟩
    have ready := CoreState.ready_of_running (inv.of_reaches reached) arch (endless n u run)
    by_cases valid : (Nat.iterate tick k s).lEX.valid = true
    · obtain ⟨v, stepped, arch'⟩ := ready.tick_of_execute ((CoreState.bootProblem_congr reached.imem).trans boot) valid
        (run.imem.trans reached.imem.symm) arch
      exact ⟨n + 1, v, CoreState.seqRun_succ.mpr ⟨u, run, stepped⟩, arch'⟩
    · obtain ⟨-, kept, -⟩ := ready.tick_ready (by simpa using valid)
      exact ⟨n, u, run, kept.trans arch⟩

/-! The stops. -/

/-- A `HALT` in Writeback retires in the next tick. -/
theorem CoreState.PipelineInv.halts_of_lWB (inv : s.PipelineInv) (noFault : s.fault.kind = .none)
    (halt : s.lWB.holdsHalt = true) : ∃ t, s.Reaches t ∧ t.halted = true ∧ t.seqView.arch = s.seqView.arch := by
  by_cases halted : s.halted = true
  · exact ⟨s, .refl s, halted, rfl⟩
  · have running : s.stopped = false := by simp [CoreState.stopped, halted, noFault]
    obtain ⟨-, lEX, -⟩ := inv.haltWB halt
    refine ⟨tick s, s.reaches_tick, ?_, tick_seqView_arch_of_idle running (by simp [lEX])⟩
    simp [tick, running, wbStage_halted, halt]

/-- A `HALT` past Execute retires: from Writeback in one tick, from Memory in two. -/
theorem CoreState.PipelineInv.halts (inv : s.PipelineInv) (noFault : s.drained.fault.kind = .none)
    (halted : s.drained.halted = true) :
    ∃ t, s.Reaches t ∧ t.halted = true ∧ t.seqView.arch = s.seqView.arch := by
  have recorded := (CoreState.drained_fault_none.mp noFault).1
  have memOk : (memStage (wbStage s)).fault.kind = .none := s.drained_fault ▸ noFault
  rw [CoreState.drained_halted noFault, Bool.or_assoc, Bool.or_eq_true, Bool.or_eq_true] at halted
  by_cases done : s.halted = true
  · exact ⟨s, .refl s, done, rfl⟩
  by_cases inWB : s.lWB.holdsHalt = true
  · exact inv.halts_of_lWB recorded inWB
  have inMEM : s.lMEM.holdsHalt = true := by simpa [done, inWB] using halted
  have running : s.stopped = false := by simp [CoreState.stopped, done, recorded]
  obtain ⟨-, lEX, -⟩ := inv.haltMEM inMEM
  have idle : exStage (memStage (wbStage s)) = memStage (wbStage s) := exStage_eq_self (by simpa using lEX)
  have e := tick_of_evaluated running (by simp [wbStage_halted, done, inWB]) memOk (by rwa [idle])
  have passed : (tick s).lWB.holdsHalt = true := by
    rw [e, idle]
    simpa [memStage_holdsHalt wbStage_lWB_valid memOk] using inMEM
  obtain ⟨t, reached, halted', arch⟩ :=
    (tickKeepsPipelineInv c s inv).halts_of_lWB (by simpa [e, idle] using memOk) passed
  exact ⟨t, s.reaches_tick.trans reached, halted', arch.trans (tick_seqView_arch_of_idle running (by simp [lEX]))⟩

/-- A recorded fault is one that Memory would not replace. -/
def CoreState.Settled (s : CoreState c) : Prop := s.fault.kind ≠ .none → memStage (wbStage s) = wbStage s

/-- Memory raises again what it raised; behind a fault of Execute it has nothing to do. -/
theorem tick_settled (s : CoreState c) (h : s.Settled) : (tick s).Settled := by
  rcases tick_cases s with ⟨-, e⟩ | ⟨running, -, e⟩ | ⟨running, -, fault, e⟩ | ⟨-, -, ok, fault, e⟩ | ⟨-, -, -, ok, e⟩
  · rwa [e]
  · intro fault
    exact absurd (CoreState.not_stopped running).2 (by simpa [e] using fault)
  · intro _
    obtain ⟨valid, access, outside, raised⟩ :=
      memStage_of_fault (s := wbStage s) (by simpa using (CoreState.not_stopped running).2) fault
    rw [e, raised, wbStage_eq_self (by simpa using wbStage_lWB_valid)]
    exact memStage_of_outside (s := ((wbStage s).raise ..).countCycle) valid access outside
  · intro _
    rcases exStage_front (memStage (wbStage s)) with ⟨-, lMEM, -⟩ | ⟨-, kept, -⟩
    · exact memStage_eq_self (by simpa [e, lMEM] using memStage_lMEM_valid ok)
    · exact absurd (kept ▸ ok) fault
  · intro fault
    exact absurd ok (by simpa [e] using fault)

theorem CoreState.Settled.drained_eq (h : s.Settled) (fault : s.fault.kind ≠ .none) : s.drained = wbStage s := by
  simp [CoreState.drained, h fault, fault]

/-- A fault that draining records is recorded in the next tick. -/
theorem CoreState.PipelineInv.faults (inv : s.PipelineInv) (fault : s.drained.fault.kind ≠ .none) :
    ∃ t, s.Reaches t ∧ t.fault.kind ≠ .none ∧ t.seqView.arch = s.seqView.arch := by
  by_cases recorded : s.fault.kind = .none
  · rw [CoreState.drained_fault] at fault
    obtain ⟨valid, -⟩ := memStage_of_fault (s := wbStage s) (by simpa using recorded) fault
    rw [wbStage_lMEM] at valid
    have notHalted : s.halted = false := by
      by_contra halted
      obtain ⟨-, -, empty, -⟩ := inv.haltDone (by simpa using halted)
      simp [valid] at empty
    have notRetiring : s.lWB.holdsHalt = false := by
      by_contra halt
      obtain ⟨-, -, empty, -⟩ := inv.haltWB (by simpa using halt)
      simp [valid] at empty
    have running : s.stopped = false := by simp [CoreState.stopped, notHalted, recorded]
    have e := tick_of_memoryFault running (by simp [wbStage_halted, notHalted, notRetiring]) fault
    refine ⟨tick s, s.reaches_tick, by simpa [e] using fault, tick_seqView_arch_of_idle running ?_⟩
    simp [CoreState.drained_fault, fault]
  · exact ⟨s, .refl s, recorded, rfl⟩

end

section

variable {c : Config} {s u v : CoreState c} {n : Nat}

/-! The three ends of a run. -/

/-- Where the sequential machine stops at a `HALT`, the pipeline halts with its registers, flags, memory and count. -/
theorem CoreState.SeqRun.halted_reached (boot : s.bootProblem = none) (inv : s.PipelineInv)
    (start : s.seqView.arch = s.arch) (run : s.SeqRun n u) (running : u.stopped = false) (last : u.SeqTo v)
    (halted : v.halted = true) :
    ∃ t, s.Reaches t ∧ t.halted = true ∧ t.retired = s.retired + BitVec.ofNat c.counterBits n + 1 ∧ t.x = v.x ∧
      t.flags = v.flags ∧ t.dmem = v.dmem := by
  obtain ⟨notHalted, noFault⟩ := CoreState.not_stopped running
  obtain ⟨fault, counted⟩ : v.fault.kind = .none ∧ v.retired = s.retired + BitVec.ofNat c.counterBits n + 1 := by
    rcases last.cases ((CoreState.bootProblem_congr run.imem).trans boot) with
      ⟨-, rfl⟩ | ⟨busy, ⟨fault, counted⟩ | ⟨-, kept⟩⟩
    · simp [notHalted] at halted
    · exact ⟨by rw [fault, noFault], by rw [counted, run.retired boot busy]⟩
    · simp [kept, notHalted] at halted
  obtain ⟨t, reached, arch⟩ := (CoreState.seqRun_succ.mpr ⟨u, run, last⟩).reached boot inv start
  have drainedFault : t.drained.fault = v.fault := congrArg Arch.fault arch
  have drainedHalted : t.drained.halted = v.halted := congrArg Arch.halted arch
  obtain ⟨t', reached', halted', arch'⟩ :=
    (inv.of_reaches reached).halts (by rw [drainedFault, fault]) (by rw [drainedHalted, halted])
  have there := reached.trans reached'
  obtain ⟨-, -, lMEM, lWB, -⟩ := (inv.of_reaches there).haltDone halted'
  have same := arch'.trans arch
  rw [CoreState.seqView_arch, CoreState.drained_eq_self lMEM lWB] at same
  exact ⟨t', there, halted', (congrArg Arch.retired same).trans counted, congrArg Arch.x same, congrArg Arch.flags same,
    congrArg Arch.dmem same⟩

/-- Where the sequential machine faults, the pipeline records the fault with its flags and memory, and its registers
once the pending `L_WB` is applied. -/
theorem CoreState.SeqRun.fault_reached (boot : s.bootProblem = none) (inv : s.PipelineInv) (settled : s.Settled)
    (start : s.seqView.arch = s.arch) (run : s.SeqRun n v) (fault : v.fault.kind ≠ .none) :
    ∃ t, s.Reaches t ∧ t.fault = v.fault ∧ t.flags = v.flags ∧ t.dmem = v.dmem ∧ (wbStage t).x = v.x := by
  obtain ⟨t, reached, arch⟩ := run.reached boot inv start
  have drainedFault : t.drained.fault = v.fault := congrArg Arch.fault arch
  obtain ⟨t', reached', recorded, arch'⟩ := (inv.of_reaches reached).faults (by rw [drainedFault]; exact fault)
  have there := reached.trans reached'
  have same := arch'.trans arch
  rw [CoreState.seqView_arch, CoreState.Settled.drained_eq (there.keeps tick_settled settled) recorded, wbStage_flags,
    wbStage_dmem, wbStage_fault] at same
  exact ⟨t', there, congrArg Arch.fault same, congrArg Arch.flags same, congrArg Arch.dmem same, congrArg Arch.x same⟩

/-- While the sequential machine never stops, the pipeline never does. -/
theorem CoreState.Reaches.running (boot : s.bootProblem = none) (inv : s.PipelineInv) (start : s.seqView.arch = s.arch)
    (endless : ∀ n u, s.SeqRun n u → u.stopped = false) (h : s.Reaches v) : v.stopped = false := by
  obtain ⟨n, u, run, arch⟩ := h.follows boot inv start endless
  exact (CoreState.ready_of_running (inv.of_reaches h) arch (endless n u run)).running

end

/-- Settles O57: from reset the pipeline comes to stand for every state of the sequential run and, while that goes on,
for no other. -/
theorem sequentialEquivalence : Obligations.SequentialEquivalence := by
  intro c p boot s q
  obtain ⟨-, -, -, -, inv, start⟩ := resetHasInvariants c p
  have settled : (CoreState.resetWith c p).Settled := fun fault => absurd rfl fault
  have ticks {t : CoreState c} (h : (CoreState.resetWith c p).Reaches t) :
      ∃ k, stepN k s = some (t.onLayer .pipeline) := by
    obtain ⟨k, rfl⟩ := h
    exact ⟨k, stepN_pipeline boot k⟩
  refine ⟨fun n u v run running last halted => ?_, fun n u v run running last fault => ?_, fun endless k t run => ?_⟩
  · obtain ⟨t, reached, done, retired, same⟩ :=
      CoreState.SeqRun.halted_reached boot inv start run running last halted
    obtain ⟨k, run'⟩ := ticks reached
    refine ⟨k, t, run', done, ?_, same⟩
    rw [retired, BitVec.ofNat_add]
    exact congrArg (· + 1) (BitVec.zero_add _)
  · obtain ⟨t, reached, same⟩ := CoreState.SeqRun.fault_reached boot inv settled start
      (CoreState.seqRun_succ.mpr ⟨u, run, last⟩) fault
    obtain ⟨k, run'⟩ := ticks reached
    exact ⟨k, t, run', same⟩
  · have reached : (CoreState.resetWith c p).Reaches t :=
      ⟨k, by simpa using (stepN_pipeline boot k).symm.trans run⟩
    exact reached.running boot inv start endless

end Sys2Proof.Machine
end

section
/-! SUPPORT. The hazard unit (spec 44_hazard_forwarding.md rules R183, R186, R187, R190; 43_pipeline_stages.md rule
R163): which stage clears a busy bit, and how many ticks in a row can stall. -/

namespace Sys2Proof.Machine

section

variable {c : Config} {s : CoreState c} {l : Latch c.xlen}

/-! Busy bits in Decode. -/

/-- Decode marks the destinations of what it issues, and clears no busy bit (rules R182, R183). -/
theorem drfStage_busyBit_of_busy {r : Reg} (busy : s.busyBit r = true) : (drfStage s).busyBit r = true := by
  have allocated : (s.setStall false).allocateBranch.busyBit r = true :=
    (CoreState.busyBit_congr (by simp) r).trans busy
  rcases drfStage_cases s with ⟨-, e⟩ | ⟨-, ⟨-, e⟩ | ⟨-, e⟩⟩ <;> rw [e]
  · exact busy
  · exact allocated
  · cases strategy : c.strategy <;> simp [CoreState.issue, CoreState.markBusy, strategy, allocated]

/-! What a stalled tick leaves. -/

theorem tick_running_before (after : (tick s).stopped = false) : s.stopped = false := by
  by_contra stopped
  rw [Bool.not_eq_false] at stopped
  simp [tick_of_stopped stopped, stopped] at after

/-- Decode does not stall where no instruction would have to wait. -/
theorem drfStage_stall_of_free (free : ∀ l, s.mustStall l = false) : (drfStage s).stall = false := by
  rcases drfStage_cases s with ⟨-, e⟩ | ⟨-, ⟨wait, -⟩ | ⟨-, e⟩⟩
  · simp [e]
  · rw [CoreState.allocateBranch_of_mustStall wait] at wait
    cases wait.symm.trans (free s.lD)
  · simp [e]

/-- With nothing in Execute, a tick that leaves the machine running has emptied `L_MEM` before Decode, and Decode alone
says whether it stalls. -/
theorem tick_of_bubble (after : (tick s).stopped = false) (lEX : s.lEX.valid = false) :
    (memStage (wbStage s)).lMEM.valid = false ∧ (tick s).lMEM = (memStage (wbStage s)).lMEM ∧
      (tick s).stall = (drfStage (memStage (wbStage s))).stall := by
  obtain ⟨noFault, e⟩ := tick_of_running (tick_running_before after) after
  rw [exStage_eq_self (by simpa using lEX)] at noFault e
  exact ⟨memStage_lMEM_valid noFault, by simp [e], by simp [e]⟩

/-- Under `FORWARDING` only a load in `L_MEM` makes an instruction wait (rule R186). -/
theorem CoreState.mustStall_forwarding (strategy : c.strategy = .forwarding) (lMEM : s.lMEM.valid = false) :
    s.mustStall l = false := by
  simp [CoreState.mustStall, strategy, lMEM]

/-- What the instruction in Decode waits for has passed Memory: under `FORWARDING` it does not wait again. -/
theorem tick_stall_forwarding (strategy : c.strategy = .forwarding) (after : (tick s).stopped = false)
    (lEX : s.lEX.valid = false) : (tick s).stall = false := by
  obtain ⟨lMEM, -, stall⟩ := tick_of_bubble after lEX
  rw [stall]
  exact drfStage_stall_of_free fun _ => CoreState.mustStall_forwarding strategy lMEM

/-- With nothing in Execute or Memory, Writeback clears the last busy bit: under either strategy nothing waits. -/
theorem tick_stall_of_empty (board : s.ScoreboardInv) (after : (tick s).stopped = false) (lEX : s.lEX.valid = false)
    (lMEM : s.lMEM.valid = false) : (tick s).stall = false := by
  obtain ⟨-, -, stall⟩ := tick_of_bubble after lEX
  rw [stall, memStage_eq_self (by simpa using lMEM)]
  exact drfStage_stall_of_free fun _ => CoreState.mustStall_of_empty (wbStage_scoreboardInv board)
    (by simpa using lEX) (by simpa using lMEM) wbStage_lWB_valid

/-- A tick that stalls leaves the bubble in `L_EX`. -/
theorem tick_lEX_of_stall (after : (tick s).stopped = false) (stall : (tick s).stall = true) :
    (tick s).lEX.valid = false := by
  obtain ⟨-, -, -, -, -, lEX⟩ := stallHoldsDecode c s (tick_running_before after) after stall
  exact lEX

end

/-- Settles O41: Writeback clears the bits of its destinations, Memory, Execute and Fetch touch none, Decode only sets
some. -/
theorem busyClearedInWritebackOnly : Obligations.BusyClearedInWritebackOnly := by
  intro c s r
  refine ⟨?_, CoreState.busyBit_congr (memStage_busy s) r, CoreState.busyBit_congr (exStage_busy s) r,
    drfStage_busyBit_of_busy, CoreState.busyBit_congr (fetchStage_busy s) r⟩
  rw [busyBit_wbStage]
  by_cases writes : s.lWB.valid = true ∧ r ∈ dests s.lWB.toRecord
  · simp [Latch.produces, writes]
  · rw [if_neg (by simpa [Latch.produces] using writes)]
    simp only [writes, not_false_eq_true, and_true]

/-- Settles O43: the operand is the youngest producer's value, which draining leaves in the register. -/
theorem operandIsProgramOrderValue : Obligations.OperandIsProgramOrderValue :=
  fun _ _ _ _ board _ noFault noStall source => CoreState.operandValue_eq_drained board noFault noStall source

/-- Settles O44: the first stall leaves `L_EX` empty, the second `L_MEM` too. -/
theorem stallsAreBounded : Obligations.StallsAreBounded := by
  refine fun c s => ⟨fun strategy stall after => ?_, fun _ board stall stall' after => ?_⟩
  · exact tick_stall_forwarding strategy after (tick_lEX_of_stall (tick_running_before after) stall)
  · have after' := tick_running_before after
    have lEX := tick_lEX_of_stall (tick_running_before after') stall
    obtain ⟨emptied, lMEM, -⟩ := tick_of_bubble after' lEX
    have board' := CoreState.scoreboardInv_keptByStages.tick (CoreState.scoreboardInv_keptByStages.tick board)
    exact tick_stall_of_empty board' after (tick_lEX_of_stall after' stall') (lMEM ▸ emptied)

end Sys2Proof.Machine
end

section
/-! SUPPORT. The hazard strategy is not seen by the sequential machine (spec 00_scope.md rule R4;
70_reset_and_hazards.md rule R250): what it does under one it does under the other. -/

namespace Sys2Proof.Machine

section

variable {c : Config} {s t u : CoreState c} {n : Nat}

/-! The core under another strategy. -/

/-- The core with everything as it is, but for the strategy. -/
def CoreState.withStrategy (st : Strategy) (s : CoreState c) : CoreState { c with strategy := st } where
  x := s.x
  pc := s.pc
  flags := s.flags
  dmem := s.dmem
  imem := s.imem
  cycles := s.cycles
  retired := s.retired
  redirectPending := s.redirectPending
  halted := s.halted
  fetchEnabled := s.fetchEnabled
  stall := s.stall
  fault := s.fault
  lF := s.lF
  lD := s.lD
  lEX := s.lEX
  lMEM := s.lMEM
  lWB := s.lWB
  btb := s.btb
  busy := s.busy

theorem CoreState.transfer_withStrategy (st : Strategy) (s : CoreState c) (a : c.Value) :
    (s.withStrategy st).transfer a = (s.transfer a).withStrategy st := by
  unfold CoreState.transfer
  split <;> rfl

theorem CoreState.branch_withStrategy (st : Strategy) (s : CoreState c) (taken : Bool) (imm : c.Value) :
    (s.withStrategy st).branch taken imm = (s.branch taken imm).withStrategy st := by
  unfold CoreState.branch
  split
  · exact CoreState.transfer_withStrategy ..
  · rfl

/-- The instruction does to `s` what it does to it under the other strategy. -/
theorem exec_withStrategy (i : Instr) (st : Strategy) (s : CoreState c) (l : Layer) :
    ∃ u : CoreState c, exec i (s.onLayer l) = .next (u.onLayer l) ∧
      exec i ((s.withStrategy st).onLayer l) = .next ((u.withStrategy st).onLayer l) := by
  cases i with
  | add | sub | mul | addl | subl | and | or | xor | movc | cmp | cml | nop | halt => exact ⟨_, rfl, rfl⟩
  | bz | bnz | bp | bnp | bn | bnn => exact ⟨_, rfl, next_onLayer_congr l (s.branch_withStrategy st ..)⟩
  | jump => exact ⟨_, rfl, next_onLayer_congr l (s.transfer_withStrategy st _)⟩
  | div rd rs1 rs2 =>
    refine ⟨_, exec_div .., (exec_div ..).trans (next_onLayer_congr l ?_)⟩
    change (if s.reg rs2 = 0 then _ else _) = _
    split <;> rfl
  | jalr rd rs1 imm =>
    cases target : aligned (jumpTarget (s.reg rs1) (immValue c imm)) with
    | true => exact ⟨_, exec_jalr_of_aligned target, exec_jalr_of_aligned (s := s.withStrategy st) target⟩
    | false => exact ⟨_, exec_jalr_of_misaligned target, exec_jalr_of_misaligned (s := s.withStrategy st) target⟩
  | load rd rs1 imm =>
    rcases lt_or_ge (effAddr (s.reg rs1) (immValue c imm)).toNat c.dmemSize with inside | outside
    · exact ⟨_, exec_load_of_inside inside, exec_load_of_inside (s := s.withStrategy st) inside⟩
    · exact ⟨_, exec_load_of_outside outside, exec_load_of_outside (s := s.withStrategy st) outside⟩
  | loadp rd rs1 imm =>
    rcases lt_or_ge (effAddr (s.reg rs1) (immValue c imm)).toNat c.dmemSize with inside | outside
    · exact ⟨_, exec_loadp_of_inside inside, exec_loadp_of_inside (s := s.withStrategy st) inside⟩
    · exact ⟨_, exec_loadp_of_outside outside, exec_loadp_of_outside (s := s.withStrategy st) outside⟩
  | store rs1 rs2 imm =>
    rcases lt_or_ge (effAddr (s.reg rs2) (immValue c imm)).toNat c.dmemSize with inside | outside
    · exact ⟨_, exec_store_of_inside inside, exec_store_of_inside (s := s.withStrategy st) inside⟩
    · exact ⟨_, exec_store_of_outside outside, exec_store_of_outside (s := s.withStrategy st) outside⟩
  | storep rs1 rs2 imm =>
    rcases lt_or_ge (effAddr (s.reg rs2) (immValue c imm)).toNat c.dmemSize with inside | outside
    · exact ⟨_, exec_storep_of_inside inside, exec_storep_of_inside (s := s.withStrategy st) inside⟩
    · exact ⟨_, exec_storep_of_outside outside, exec_storep_of_outside (s := s.withStrategy st) outside⟩

/-! The sequential machine under another strategy. -/

theorem seqStep_withStrategy (st : Strategy) (s : CoreState c) (l : Layer) :
    ∃ u : CoreState c, seqStep (s.onLayer l) = .next (u.onLayer l) ∧
      seqStep ((s.withStrategy st).onLayer l) = .next ((u.withStrategy st).onLayer l) := by
  have stopped : (s.withStrategy st).stopped = s.stopped := rfl
  have entry : (s.withStrategy st).entryAt (s.withStrategy st).pc = s.entryAt s.pc := rfl
  rcases seqStep_cases s l with ⟨h, e⟩ | ⟨h, noEntry, e⟩ | ⟨a, i, h, found, instr, e⟩ | ⟨a, h, found, noInstr, e⟩
  · exact ⟨s, e, by simp [seqStep, stopped, h]⟩
  · exact ⟨s, e, by simp [seqStep, stopped, h, entry, noEntry]⟩
  · obtain ⟨u, answer, answer'⟩ := exec_withStrategy i st s l
    exact ⟨u, e.trans answer, by simpa [seqStep, stopped, h, entry, found, instr] using answer'⟩
  · refine ⟨_, e, ?_⟩
    simp only [seqStep, CoreState.onLayer_core, CoreState.onLayer_config, stopped, h, entry, found, noInstr]
    rfl

theorem CoreState.SeqTo.withStrategy (st : Strategy) (boot : s.bootProblem = none) (h : s.SeqTo t) :
    (s.withStrategy st).SeqTo (t.withStrategy st) := by
  obtain ⟨u, answer, answer'⟩ := seqStep_withStrategy st s .sequential
  obtain rfl : t = u := h.unique ((step_sequential s boot).trans answer)
  exact (step_sequential (s.withStrategy st) boot).trans answer'

theorem CoreState.SeqRun.withStrategy (st : Strategy) (boot : s.bootProblem = none) (h : s.SeqRun n u) :
    (s.withStrategy st).SeqRun n (u.withStrategy st) := by
  induction n generalizing u with
  | zero => exact CoreState.seqRun_zero.mpr (congrArg _ (CoreState.seqRun_zero.mp h))
  | succ n ih =>
    obtain ⟨w, run, last⟩ := CoreState.seqRun_succ.mp h
    exact CoreState.seqRun_succ.mpr
      ⟨_, ih run, last.withStrategy st ((CoreState.bootProblem_congr run.imem).trans boot)⟩

end

end Sys2Proof.Machine
end

section
/-! SUPPORT. How a run of the pipeline ends (spec 44_hazard_forwarding.md rule R192; 60_exceptions.md rules R221, R230):
a stopped pipeline shows what a stopped sequential machine holds, and each of the two stops where the other does. -/

namespace Sys2Proof.Machine

section

variable {c : Config} {s t u : CoreState c} {n : Nat}

/-! The sequential machine stops in one way only. -/

/-- A halted sequential machine has recorded no fault: an instruction that faults does not halt, and one that completes
records nothing. -/
theorem CoreState.SeqRun.noFault_of_halted (boot : s.bootProblem = none) (start : s.halted = false) (h : s.SeqRun n u)
    (halted : u.halted = true) : u.fault.kind = .none := by
  induction n generalizing u with
  | zero =>
    obtain rfl := CoreState.seqRun_zero.mp h
    simp [start] at halted
  | succ n ih =>
    obtain ⟨w, run, last⟩ := CoreState.seqRun_succ.mp h
    rcases last.cases ((CoreState.bootProblem_congr run.imem).trans boot) with
      ⟨-, rfl⟩ | ⟨busy, ⟨fault, -⟩ | ⟨-, kept⟩⟩
    · exact ih run halted
    · simp only [CoreState.Idle, not_or, Bool.not_eq_true] at busy
      rw [fault]
      exact (CoreState.not_stopped busy.1).2
    · simp only [CoreState.Idle, not_or, Bool.not_eq_true] at busy
      simp [kept, (CoreState.not_stopped busy.1).1] at halted

/-! A stopped pipeline against a stopped sequential machine. -/

/-- The pipeline `t` shows the end of the sequential machine `u`: registers and count with the pending `L_WB` applied
(rule R230). -/
structure CoreState.ShowsEnd (t u : CoreState c) : Prop where
  halted : t.halted = u.halted
  fault : t.fault = u.fault
  flags : t.flags = u.flags
  dmem : t.dmem = u.dmem
  x : (wbStage t).x = u.x
  retired : (wbStage t).retired = u.retired

/-- Behind a `HALT` nothing is left to drain, and behind a recorded fault nothing but the pending `L_WB`. -/
theorem CoreState.drained_of_stopped (inv : t.PipelineInv) (settled : t.Settled) (stopped : t.stopped = true) :
    t.drained = wbStage t := by
  by_cases halted : t.halted = true
  · obtain ⟨-, -, lMEM, lWB, -⟩ := inv.haltDone halted
    rw [CoreState.drained_eq_self lMEM lWB, wbStage_eq_self lWB]
  · exact settled.drained_eq (by simpa [CoreState.stopped, halted] using stopped)

theorem CoreState.showsEnd_of_stopped (inv : t.PipelineInv) (settled : t.Settled) (stopped : t.stopped = true)
    (arch : t.seqView.arch = u.arch) (oneEnd : u.halted = true → u.fault.kind = .none) : t.ShowsEnd u := by
  rw [CoreState.seqView_arch, CoreState.drained_of_stopped inv settled stopped] at arch
  simp only [CoreState.arch, Arch.mk.injEq, wbStage_flags, wbStage_dmem, wbStage_fault] at arch
  obtain ⟨x, -, flags, dmem, halted, fault, retired⟩ := arch
  refine ⟨?_, fault, flags, dmem, x, retired⟩
  by_cases done : t.halted = true
  · rw [← halted, wbStage_halted, done, Bool.true_or]
  · have recorded : u.fault.kind ≠ .none := by
      simpa [CoreState.stopped, done, fault] using stopped
    have notHalted : u.halted = false := by simpa using mt oneEnd recorded
    simpa [notHalted] using done

/-! The two machines stop together. -/

/-- Every state the pipeline reaches stands for one of the sequential run. -/
theorem CoreState.Reaches.standsFor (boot : s.bootProblem = none) (inv : s.PipelineInv)
    (start : s.seqView.arch = s.arch) (h : s.Reaches t) : ∃ n u, s.SeqRun n u ∧ t.seqView.arch = u.arch := by
  obtain ⟨k, rfl⟩ := h
  induction k with
  | zero => exact ⟨0, s, CoreState.seqRun_zero.mpr rfl, start⟩
  | succ k ih =>
    rw [Function.iterate_succ_apply']
    obtain ⟨n, u, run, arch⟩ := ih
    have reached : s.Reaches (Nat.iterate tick k s) := ⟨k, rfl⟩
    have inv' := inv.of_reaches reached
    by_cases stopped : (Nat.iterate tick k s).stopped = true
    · rw [tick_of_stopped stopped]
      exact ⟨n, u, run, arch⟩
    rw [Bool.not_eq_true] at stopped
    by_cases executes : (Nat.iterate tick k s).lEX.valid = true ∧ (Nat.iterate tick k s).drained.fault.kind = .none
    · obtain ⟨valid, noFault⟩ := executes
      have notHalted := CoreState.drained_halted noFault
      simp only [inv'.noHalt_of_execute valid, Bool.or_self] at notHalted
      obtain ⟨v, stepped, arch'⟩ := (CoreState.ready_of_drained inv' noFault notHalted).tick_of_execute
        ((CoreState.bootProblem_congr reached.imem).trans boot) valid (run.imem.trans reached.imem.symm) arch
      exact ⟨n + 1, v, CoreState.seqRun_succ.mpr ⟨u, run, stepped⟩, arch'⟩
    · exact ⟨n, u, run, (tick_seqView_arch_of_idle stopped executes).trans arch⟩

theorem CoreState.ShowsEnd.stopped (h : t.ShowsEnd u) (stopped : t.stopped = true) : u.stopped = true := by
  simpa [CoreState.stopped, h.halted, h.fault] using stopped

/-- A core both machines may start from: what rule R240 gives the reset state. -/
structure CoreState.Start (s : CoreState c) : Prop where
  boot : s.bootProblem = none
  inv : s.PipelineInv
  settled : s.Settled
  arch : s.seqView.arch = s.arch
  running : s.halted = false

theorem CoreState.start_resetWith {p : List (Entry c.xlen)} (boot : (CoreState.resetWith c p).bootProblem = none) :
    (CoreState.resetWith c p).Start := by
  obtain ⟨-, -, -, -, inv, arch⟩ := resetHasInvariants c p
  exact ⟨boot, inv, fun fault => absurd rfl fault, arch, rfl⟩

/-- A state the pipeline stopped in shows each state of the sequential run that it stands for. -/
theorem CoreState.Start.showsEnd (h : s.Start) (reached : s.Reaches t) (stopped : t.stopped = true)
    (run : s.SeqRun n u) (arch : t.seqView.arch = u.arch) : t.ShowsEnd u :=
  CoreState.showsEnd_of_stopped (h.inv.of_reaches reached) (reached.keeps tick_settled h.settled) stopped arch
    (run.noFault_of_halted h.boot h.running)

/-- Where the pipeline stops, so does the sequential machine, and the pipeline shows its end. -/
theorem CoreState.Start.sequential_stops (h : s.Start)
    (run : stepN n (s.onLayer .pipeline) = some (t.onLayer .pipeline)) (stopped : t.stopped = true) :
    ∃ k u, s.SeqRun k u ∧ u.stopped = true ∧ t.ShowsEnd u := by
  have reached : s.Reaches t := ⟨n, by simpa using (stepN_pipeline h.boot n).symm.trans run⟩
  obtain ⟨k, u, run', arch⟩ := reached.standsFor h.boot h.inv h.arch
  have shows := h.showsEnd reached stopped run' arch
  exact ⟨k, u, run', shows.stopped stopped, shows⟩

/-- A pipeline that stands for a stopped machine stops, and stands for it still. -/
theorem CoreState.PipelineInv.stops (inv : t.PipelineInv) (arch : t.seqView.arch = u.arch)
    (stopped : u.stopped = true) : ∃ v, t.Reaches v ∧ v.stopped = true ∧ v.seqView.arch = t.seqView.arch := by
  have fault : t.drained.fault = u.fault := congrArg Arch.fault arch
  have halted : t.drained.halted = u.halted := congrArg Arch.halted arch
  by_cases noFault : u.fault.kind = .none
  · have done : u.halted = true := by simpa [CoreState.stopped, noFault] using stopped
    obtain ⟨v, reached, halts, arch'⟩ := inv.halts (by rw [fault, noFault]) (by rw [halted, done])
    exact ⟨v, reached, by simp [CoreState.stopped, halts], arch'⟩
  · obtain ⟨v, reached, recorded, arch'⟩ := inv.faults (by rwa [fault])
    exact ⟨v, reached, by simp [CoreState.stopped, recorded], arch'⟩

/-- Where the sequential machine stops, so does the pipeline, and it shows that end. -/
theorem CoreState.Start.pipeline_stops (h : s.Start) (run : s.SeqRun n u) (stopped : u.stopped = true) :
    ∃ (k : Nat) (t : CoreState c), stepN k (s.onLayer .pipeline) = some (t.onLayer .pipeline) ∧ t.ShowsEnd u := by
  obtain ⟨t, reached, arch⟩ := run.reached h.boot h.inv h.arch
  obtain ⟨v, reached', stopped', arch'⟩ := (h.inv.of_reaches reached).stops arch stopped
  have there := reached.trans reached'
  have shows := h.showsEnd there stopped' run (arch'.trans arch)
  obtain ⟨k, rfl⟩ := there
  exact ⟨k, _, stepN_pipeline h.boot k, shows⟩

end

/-- Settles O58: the stopped pipeline shows the end of its sequential run, which the other strategy has too, and which
its pipeline comes to show. -/
theorem strategiesAgree : Obligations.StrategiesAgree := by
  intro c p a b k t boot run stopped
  have startA : (CoreState.resetWith { c with strategy := a } p).Start := CoreState.start_resetWith boot
  have startB : (CoreState.resetWith { c with strategy := b } p).Start := CoreState.start_resetWith boot
  obtain ⟨n, u, seqRun, ended, shows⟩ := startA.sequential_stops run stopped
  have seqRunB := seqRun.withStrategy b startA.boot
  obtain ⟨j, v, run', shows'⟩ := startB.pipeline_stops seqRunB ended
  exact ⟨j, v, run', shows'.halted.trans shows.halted.symm, shows'.fault.trans shows.fault.symm,
    shows'.flags.trans shows.flags.symm, shows'.dmem.trans shows.dmem.symm, shows'.x.trans shows.x.symm,
    shows'.retired.trans shows.retired.symm⟩

end Sys2Proof.Machine
end

section
/-! SUPPORT. The branch-target buffer (spec 45_branch_predictor.md rules R202, R204 to R208): the history, the slot of an
allocation, and the resolution of a conditional branch. -/

namespace Sys2Proof.Machine

section

variable {c : Config} {s : CoreState c} {l : Latch c.xlen} {taken : Bool}

/-! The slot of an allocation. -/

/-- Two first free slots would each have only valid slots before it, so neither comes before the other. -/
theorem CoreState.victim_of_first_free {i : Slot} (free : s.btb[i.val].valid = false)
    (before : ∀ j : Slot, j < i → s.btb[j.val].valid = true) : s.victim = i := by
  rcases s.victim_cases with ⟨victimFree, victimBefore⟩ | ⟨full, -⟩
  · refine le_antisymm (le_of_not_gt fun lt => ?_) (le_of_not_gt fun lt => ?_)
    · simp [victimBefore i lt] at free
    · simp [before _ lt] at victimFree
  · simp [full i] at free

theorem CoreState.victim_of_full (full : ∀ j : Slot, s.btb[j.val].valid = true) : s.victim = 0 := by
  rcases s.victim_cases with ⟨free, -⟩ | ⟨-, first⟩
  · simp [full s.victim] at free
  · exact first

/-! The history. -/

theorem seed_of_branch {k : Kind} (branch : isCondBranch k = true) :
    seed k = if k = .bnz ∨ k = .bp then (true, true) else (false, false) := by
  cases k with
  | bz | bnz | bp | bnp | bn | bnn => rfl
  | _ => cases branch

/-- Strongly not taken is left by a taken branch and not entered again (rule R206). -/
theorem nextHistory_ne_strongly_not_taken :
    ∀ h0 h1 taken, (h0, h1) ≠ (false, false) → nextHistory h0 h1 taken ≠ (false, false) := by
  decide

/-- A history read as a two-bit number, `h0` its high bit. -/
def historyNumber (h : Bool × Bool) : Nat := 2 * h.1.toNat + h.2.toNat

/-- The number saturates at 3 going up and at 1 going down, and stays at 0 there (rule R206). -/
theorem historyNumber_nextHistory :
    ∀ h0 h1 : Bool, historyNumber (nextHistory h0 h1 true) = min 3 (historyNumber (h0, h1) + 1) ∧
      historyNumber (nextHistory h0 h1 false) =
        if historyNumber (h0, h1) = 0 then 0 else max 1 (historyNumber (h0, h1) - 1) := by
  decide

/-- The prediction is the high bit, which is set in the two taken states (rule R202). -/
theorem CoreState.predictTaken_iff {i : Slot} :
    s.predictTaken i = true ↔
      (s.btb[i.val].h0, s.btb[i.val].h1) = (true, false) ∨ (s.btb[i.val].h0, s.btb[i.val].h1) = (true, true) := by
  unfold CoreState.predictTaken
  cases s.btb[i.val].h1 <;> simp

/-- The trained slot moves by `nextHistory`. -/
theorem CoreState.updateHistory_history (s : CoreState c) (i : Slot) (taken : Bool) :
    ((s.updateHistory i taken).btb[i.val].h0, (s.updateHistory i taken).btb[i.val].h1) =
      nextHistory s.btb[i.val].h0 s.btb[i.val].h1 taken := by
  rw [CoreState.updateHistory_entry, if_pos rfl]
  rfl

theorem CoreState.updateHistory_other {i j : Slot} (other : j ≠ i) :
    (s.updateHistory i taken).btb[j.val] = s.btb[j.val] := by
  rw [CoreState.updateHistory_entry, if_neg other]

/-! A conditional branch in Execute. -/

/-- The six kinds resolve alike, each by its own test of the flags (rules R121 to R126). -/
theorem exKind_of_branch (branch : isCondBranch l.kind = true) (outcome : taken = true ↔ CondHolds l.kind s.flags) :
    exKind l s = exBranch taken l s := by
  have resolves {test : Bool} (decides : test = true ↔ CondHolds l.kind s.flags) :
      exBranch test l s = exBranch taken l s :=
    congrArg (exBranch · l s) (Bool.eq_iff_iff.mpr (decides.trans outcome.symm))
  unfold exKind
  cases k : l.kind with
  | bz => exact resolves (by simp [CondHolds, k, condZ])
  | bnz => exact resolves (by simp [CondHolds, k, condNZ])
  | bp => exact resolves (by simp [CondHolds, k, condP])
  | bnp => exact resolves (by simp [CondHolds, k, condNP])
  | bn => exact resolves (by simp [CondHolds, k, condN])
  | bnn => exact resolves (by simp [CondHolds, k, condNN])
  | _ => simp [k, isCondBranch] at branch

theorem exBranch_of_misaligned (bad : aligned (branchTarget l.pc l.imm) = false) :
    exBranch true l s =
      .raise ((s.updateHistory l.btbIdx true).raise .misalignedTarget l.pc (branchTarget l.pc l.imm)) := by
  simp [exBranch, bad]

/-- The fetch path was right (rule R207). -/
theorem exBranch_of_predicted (predicted : l.predTaken = taken)
    (ok : taken = true → aligned (branchTarget l.pc l.imm) = true) :
    exBranch taken l s = .pass l (s.updateHistory l.btbIdx taken) := by
  cases taken with
  | true => simp [exBranch, predicted, ok]
  | false => simp [exBranch, predicted]

theorem exBranch_of_missed_taken (ok : aligned (branchTarget l.pc l.imm) = true) (predicted : l.predTaken = false) :
    exBranch true l s = .pass l ((s.updateHistory l.btbIdx true).redirect (branchTarget l.pc l.imm)) := by
  simp [exBranch, ok, predicted]

theorem exBranch_of_missed_not_taken (predicted : l.predTaken = true) :
    exBranch false l s = .pass l ((s.updateHistory l.btbIdx false).redirect (nextPc l.pc)) := by
  simp [exBranch, predicted]

end

/-- Settles O37: the victim is the first free slot, 0 in a full table, and its entry alone is written. -/
theorem allocationTakesFirstFreeSlot : Obligations.AllocationTakesFirstFreeSlot :=
  fun _ s a k u i => ⟨CoreState.victim_of_first_free, CoreState.victim_of_full, s.allocate_entry a k u i⟩

/-- Settles O36: the eight transitions by evaluation, the others from the lemmas about the history. -/
theorem historyRules : Obligations.HistoryRules :=
  ⟨fun _ => seed_of_branch, ⟨rfl, rfl⟩, ⟨rfl, rfl⟩, ⟨rfl, rfl⟩, ⟨rfl, rfl⟩, nextHistory_ne_strongly_not_taken,
    historyNumber_nextHistory, fun _ s i _ taken =>
      ⟨CoreState.predictTaken_iff, s.updateHistory_history i taken, CoreState.updateHistory_other⟩⟩

/-- Settles O38: Execute resolves the branch by its outcome, and each outcome against each path is one equation. -/
theorem branchResolution : Obligations.BranchResolution := by
  intro c l s taken branch outcome
  rw [exKind_of_branch branch outcome]
  refine ⟨?_, ?_, ?_, ?_, ?_⟩
  · rintro rfl bad
    exact exBranch_of_misaligned bad
  · rintro rfl ok predicted
    exact exBranch_of_predicted predicted fun _ => ok
  · rintro rfl ok predicted
    exact exBranch_of_missed_taken ok predicted
  · rintro rfl predicted
    exact exBranch_of_missed_not_taken predicted
  · rintro rfl predicted
    exact exBranch_of_predicted predicted (by simp)

end Sys2Proof.Machine
end

section
/-! SUPPORT. Faults and stops (spec 60_exceptions.md rules R220 to R225, R229, R234): which faults an instruction in
Execute can record, where the fault of a tick comes from, and a stopped machine on either layer. -/

namespace Sys2Proof.Machine

section

variable {c : Config} {s t : CoreState c} {l : Latch c.xlen}

/-! The fault of an instruction in Execute. -/

/-- The faults that the instruction in `l` can record in Execute under the flags `f`: the rows of the table of rule R220
for that stage. -/
inductive Latch.Faults {n : Nat} (l : Latch n) (f : Flags) : FaultReg n → Prop
  | invalidOpcode (kind : l.kind = .invalid) : l.Faults f ⟨.invalidOpcode, l.pc, 0⟩
  | divisionByZero (kind : l.kind = .div) (divisor : l.rs2Value = 0) : l.Faults f ⟨.divisionByZero, l.pc, l.rs1Value⟩
  | misalignedBranch (branch : isCondBranch l.kind = true) (holds : CondHolds l.kind f)
      (target : aligned (l.pc + l.imm) = false) : l.Faults f ⟨.misalignedTarget, l.pc, l.pc + l.imm⟩
  | misalignedJump (jump : l.kind = .jump ∨ l.kind = .jalr) (target : aligned (l.rs1Value + l.imm) = false) :
      l.Faults f ⟨.misalignedTarget, l.pc, l.rs1Value + l.imm⟩

/-- A conditional branch raises only where it is taken to a misaligned target (rules R207, R225). -/
theorem exKind_branch_faults (branch : isCondBranch l.kind = true) (raised : exKind l s = .raise t) :
    l.Faults s.flags t.fault := by
  classical
  obtain ⟨taken, outcome⟩ : ∃ taken : Bool, taken = true ↔ CondHolds l.kind s.flags := ⟨_, decide_eq_true_iff⟩
  rw [exKind_of_branch branch outcome] at raised
  rcases exBranch_cases taken l s with ⟨taken, target, e⟩ | ⟨-, -, -, e⟩ | ⟨-, -, e⟩ | ⟨-, -, e⟩ <;>
    cases raised.symm.trans e
  exact .misalignedBranch branch (outcome.mp taken) target

/-- What a kind raises in Execute is a row of the table. -/
theorem exKind_faults (raised : exKind l s = .raise t) : l.Faults s.flags t.fault := by
  by_cases branch : isCondBranch l.kind = true
  · exact exKind_branch_faults branch raised
  unfold exKind at raised
  cases k : l.kind with
  | invalid =>
    simp only [k, exInvalid] at raised
    cases raised
    exact .invalidOpcode k
  | div =>
    simp only [k, exDiv] at raised
    split at raised
    next divisor => cases raised; exact .divisionByZero k divisor
    next => cases raised
  | jump | jalr =>
    simp only [k, exJump, exJalr] at raised
    split at raised
    next => cases raised
    next target => cases raised; exact .misalignedJump (by simp [k]) (Bool.eq_false_of_not_eq_true target)
  | bz | bnz | bp | bnp | bn | bnn => simp [k, isCondBranch] at branch
  | _ => simp only [k] at raised; cases raised

/-- A fault that Execute records is one of the instruction in `L_EX`. -/
theorem exStage_faults (noFault : s.fault.kind = .none) (fault : (exStage s).fault.kind ≠ .none) :
    s.lEX.valid = true ∧ s.lEX.Faults s.flags (exStage s).fault := by
  rcases exStage_cases s with ⟨-, e⟩ | ⟨t, valid, raised, -, e⟩ | ⟨l, t, -, -, passed, e⟩
  · exact absurd (by rw [e, noFault]) fault
  · exact ⟨valid, e ▸ exKind_faults raised⟩
  · exact absurd (by rw [e, CoreState.passToMEM_fault, passed.fault, noFault]) fault

/-! The fault of a tick. -/

/-- A tick of a running machine records no fault, the `MemoryFault` of the access in `L_MEM`, or a fault of the
instruction in `L_EX`. -/
theorem tick_fault_cases (running : s.stopped = false) :
    (tick s).fault.kind = .none ∨
      (s.lMEM.valid = true ∧ (isLoad s.lMEM.kind = true ∨ isStore s.lMEM.kind = true) ∧
        c.dmemSize ≤ s.lMEM.memAddr.toNat ∧ (tick s).fault = ⟨.memoryFault, s.lMEM.pc, s.lMEM.memAddr⟩) ∨
      (s.lEX.valid = true ∧ s.lEX.Faults s.flags (tick s).fault) := by
  obtain ⟨-, noFault⟩ := CoreState.not_stopped running
  rcases tick_cases s with ⟨stopped, -⟩ | ⟨-, -, e⟩ | ⟨-, -, fault, e⟩ | ⟨-, -, memOk, fault, e⟩ | ⟨-, -, -, ok, e⟩
  · simp [running] at stopped
  · exact .inl (by simpa [e] using noFault)
  · obtain ⟨valid, access, outside, raised⟩ := memStage_of_fault (by simpa using noFault) fault
    simp only [wbStage_lMEM] at valid access outside raised
    exact .inr (.inl ⟨valid, access, outside, by simp [e, raised]⟩)
  · exact .inr (.inr (by simpa [e] using exStage_faults memOk fault))
  · exact .inl (by simpa [e] using ok)

/-! A stopped machine. -/

theorem seqStep_of_stopped {s : State} (stopped : s.core.stopped = true) : seqStep s = .next s := if_pos stopped

end

/-- Settles O48: the row of the fault that the tick records decides which clause is about it. -/
theorem faultCauses : Obligations.FaultCauses := by
  intro c s running
  rcases tick_fault_cases running with noFault | ⟨valid, access, outside, e⟩ | ⟨valid, faults⟩
  · simp [noFault]
  · simp [e, valid, access, outside]
  · generalize (tick s).fault = f at faults
    cases faults with
    | invalidOpcode kind => simp [valid, kind]
    | divisionByZero kind divisor => simp [valid, kind, divisor]
    | misalignedBranch branch holds target => simp [valid, branch, holds, target]
    | misalignedJump jump target => simp [valid, jump, target]

/-- Settles O29: the tick and the sequential step each look first whether the machine is stopped. -/
theorem stoppedMachineStays : Obligations.StoppedMachineStays := by
  rintro ⟨c, layer, s⟩ boot stop
  have stopped : s.stopped = true := by simpa [CoreState.stopped] using stop
  cases layer with
  | pipeline => exact (step_pipeline s boot).trans (by rw [tick_of_stopped stopped]; rfl)
  | sequential => exact (step_sequential s boot).trans (seqStep_of_stopped stopped)

end Sys2Proof.Machine
end

section
/-! SUPPORT. The architectural state without the counter (spec 70_reset_and_hazards.md rule R251): what an instruction
does to it depends on nothing else, nor on the layer. -/

namespace Sys2Proof.Machine

section

variable {c : Config} {s t : CoreState c}

/-- The architectural state but for the count of retired instructions. -/
def CoreState.data (s : CoreState c) : Arch c := { s.arch with retired := 0 }

theorem CoreState.data_eq_iff :
    t.data = s.data ↔
      t.x = s.x ∧ t.pc = s.pc ∧ t.flags = s.flags ∧ t.dmem = s.dmem ∧ t.halted = s.halted ∧ t.fault = s.fault := by
  simp [CoreState.data, CoreState.arch]

/-- The data of `s` with the timing state of `w`, its counters and its program. -/
def CoreState.withTiming (s w : CoreState c) : CoreState c :=
  { w with x := s.x, pc := s.pc, flags := s.flags, dmem := s.dmem, halted := s.halted, fault := s.fault }

theorem CoreState.eq_withTiming (same : t.data = s.data) : t = s.withTiming t := by
  obtain ⟨x, pc, flags, dmem, halted, fault⟩ := CoreState.data_eq_iff.mp same
  simp [CoreState.withTiming, ← x, ← pc, ← flags, ← dmem, ← halted, ← fault]

@[simp] theorem CoreState.reg_withTiming (s w : CoreState c) (r : Reg) : (s.withTiming w).reg r = s.reg r := rfl
@[simp] theorem CoreState.memRead_withTiming (s w : CoreState c) (a : c.Value) :
    (s.withTiming w).memRead a = s.memRead a := rfl
@[simp] theorem CoreState.memWrite_withTiming (s w : CoreState c) (a v : c.Value) :
    (s.withTiming w).memWrite a v = (s.memWrite a v).map (·.withTiming w) := by
  unfold CoreState.memWrite
  split <;> rfl

theorem CoreState.transfer_withTiming (s w : CoreState c) (a : c.Value) :
    ((s.withTiming w).transfer a).data = (s.transfer a).data := by
  unfold CoreState.transfer
  split <;> rfl

theorem CoreState.branch_withTiming (s w : CoreState c) (taken : Bool) (imm : c.Value) :
    ((s.withTiming w).branch taken imm).data = (s.branch taken imm).data := by
  unfold CoreState.branch
  split
  · exact CoreState.transfer_withTiming ..
  · rfl

/-- The instruction does to the data of `s` what it does to them under any timing state and on any layer. -/
theorem exec_withTiming (i : Instr) (s w : CoreState c) (k l : Layer) :
    ∃ t v : CoreState c, exec i (s.onLayer k) = .next (t.onLayer k) ∧
      exec i ((s.withTiming w).onLayer l) = .next (v.onLayer l) ∧ v.data = t.data := by
  cases i with
  | add | sub | mul | addl | subl | and | or | xor | movc | cmp | cml | nop | halt =>
    exact ⟨_, _, rfl, rfl, rfl⟩
  | bz | bnz | bp | bnp | bn | bnn => exact ⟨_, _, rfl, rfl, s.branch_withTiming w ..⟩
  | jump => exact ⟨_, _, rfl, rfl, s.transfer_withTiming w _⟩
  | div rd rs1 rs2 =>
    refine ⟨_, _, exec_div .., exec_div .., ?_⟩
    rw [CoreState.reg_withTiming]
    split <;> rfl
  | jalr rd rs1 imm =>
    refine ⟨_, _, exec_jalr .., exec_jalr .., ?_⟩
    rw [CoreState.reg_withTiming]
    split <;> rfl
  | load rd rs1 imm =>
    refine ⟨_, _, exec_load .., exec_load .., ?_⟩
    rw [CoreState.reg_withTiming, CoreState.memRead_withTiming]
    cases s.memRead (effAddr (s.reg rs1) (immValue c imm)) <;> rfl
  | loadp rd rs1 imm =>
    refine ⟨_, _, exec_loadp .., exec_loadp .., ?_⟩
    rw [CoreState.reg_withTiming, CoreState.memRead_withTiming]
    cases s.memRead (effAddr (s.reg rs1) (immValue c imm)) <;> rfl
  | store rs1 rs2 imm =>
    refine ⟨_, _, exec_store .., exec_store .., ?_⟩
    simp only [CoreState.reg_withTiming, CoreState.memWrite_withTiming]
    cases s.memWrite (effAddr (s.reg rs2) (immValue c imm)) (s.reg rs1) <;> rfl
  | storep rs1 rs2 imm =>
    refine ⟨_, _, exec_storep .., exec_storep .., ?_⟩
    simp only [CoreState.reg_withTiming, CoreState.memWrite_withTiming]
    cases s.memWrite (effAddr (s.reg rs2) (immValue c imm)) (s.reg rs1) <;> rfl

end

/-- Settles O28: an instruction answers one core on every layer, with data that the data of its state determine. -/
theorem timingInvisible : Obligations.TimingInvisible := by
  intro c k l i s u t x pc flags dmem halted fault answer
  have same : u.data = s.data := CoreState.data_eq_iff.mpr ⟨x, pc, flags, dmem, halted, fault⟩
  obtain ⟨t', v, onS, onU, data⟩ := exec_withTiming i s u k l
  rw [← CoreState.eq_withTiming same] at onU
  obtain rfl : t = t' := by simpa using answer.symm.trans onS
  exact ⟨v, onU, CoreState.data_eq_iff.mp data⟩

end Sys2Proof.Machine
end

section
/-! SUPPORT. The reset state and the tick after it (spec 70_reset_and_hazards.md rules R240, R241). -/

namespace Sys2Proof.Machine

section

variable {c : Config} {s : CoreState c}

@[simp] theorem CoreState.resetWith_reg (p : List (Entry c.xlen)) (r : Reg) : (CoreState.resetWith c p).reg r = 0 := by
  simp [CoreState.resetWith, CoreState.reg]

@[simp] theorem CoreState.resetWith_busyBit (p : List (Entry c.xlen)) (r : Reg) :
    (CoreState.resetWith c p).busyBit r = false := by
  simp [CoreState.resetWith, CoreState.busyBit]

@[simp] theorem CoreState.resetWith_entry (p : List (Entry c.xlen)) (i : Slot) :
    (CoreState.resetWith c p).btb[i.val] = .empty := by
  simp [CoreState.resetWith]

/-- An empty table has no entry for any address. -/
theorem CoreState.lookup_of_empty (empty : ∀ i : Slot, s.btb[i.val].valid = false) (a : c.Value) :
    s.lookup a = none :=
  CoreState.lookup_eq_none.mpr fun i valid => by simp [empty i] at valid

/-- Where nothing holds Fetch back and the table has no entry for `pc`, the entry at `pc` goes on to Decode and `pc` to
the next address. -/
theorem fetchStage_of_miss {e : Entry c.xlen} (noBubble : s.redirectPending = false) (enabled : s.fetchEnabled = true)
    (noStall : s.stall = false) (entry : s.entryAt s.pc = some e) (miss : s.lookup s.pc = none) :
    fetchStage s = s.passToD (Latch.fetched s.pc (e.toRecord c.immBits)) (nextPc s.pc) := by
  simp [fetchStage, CoreState.fetchPass, noBubble, enabled, noStall, entry, miss]

end

/-- Settles O31: field by field. -/
theorem resetValues : Obligations.ResetValues := by
  intro c p u st s
  exact ⟨fun r => ⟨CoreState.resetWith_reg p r, CoreState.resetWith_busyBit p r⟩, rfl, rfl, fun _ => rfl, rfl, rfl,
    rfl, rfl, rfl, rfl, rfl, rfl, rfl, rfl, rfl, rfl, rfl, CoreState.resetWith_entry p, rfl⟩

/-- Settles O32: the latches are empty, so the tick is Fetch alone; the table is empty, so Fetch goes on in sequence. -/
theorem firstTickFetchesEntryZero : Obligations.FirstTickFetchesEntryZero := by
  intro c e p boot s
  obtain ⟨-, wf, fits⟩ := s.bootProblem_eq_none.mp boot
  have entry : s.entryAt s.pc = some e :=
    CoreState.entryAt_entryPoint wf (by simp only [s, CoreState.resetWith, List.length_cons] at fits; omega) rfl
  have miss : s.lookup s.pc = none := CoreState.lookup_of_empty (CoreState.resetWith_btb c (e :: p)) s.pc
  have fetched : tick s = (s.passToD (Latch.fetched s.pc (e.toRecord c.immBits)) (nextPc s.pc)).countCycle := by
    rw [tick_of_drained (s := s) rfl rfl rfl rfl, drfStage_of_invalid (s := s) rfl]
    exact congrArg CoreState.countCycle (fetchStage_of_miss (s := s) rfl rfl rfl entry miss)
  have first : s.cycles + 1 = 1 := zero_add 1
  rw [step_pipeline s boot, fetched, CoreState.countCycle, CoreState.passToD_cycles, first]
  rfl

end Sys2Proof.Machine
end

section
/-! SUPPORT. What no rule reads (spec 70_reset_and_hazards.md rule R240): two cores that differ at most beside `valid`
of invalid latches and invalid entries of the table give every rule the same values to read, and every operation and
every stage leaves two such cores. -/

namespace Sys2Proof.Machine

section

variable {c : Config} {s t : CoreState c} {l m : Latch c.xlen}

/-! Latches. -/

theorem Latch.readsAlike.refl (l : Latch c.xlen) : l.readsAlike l := ⟨rfl, fun _ => rfl⟩

theorem Latch.readsAlike.flushed (l m : Latch c.xlen) :
    Latch.readsAlike { l with valid := false } { m with valid := false } := ⟨rfl, nofun⟩

theorem Latch.readsAlike.cases (h : l.readsAlike m) :
    (l.valid = false ∧ m.valid = false) ∨ (l.valid = true ∧ m = l) := by
  obtain ⟨valid, same⟩ := h
  cases hl : l.valid with
  | false => exact .inl ⟨rfl, valid ▸ hl⟩
  | true => exact .inr ⟨rfl, (same hl).symm⟩

/-- A latch forwards only where it produces, and produces only where it is valid. -/
theorem Latch.readsAlike.forwards (h : l.readsAlike m) (r : Reg) (otherwise : c.Value) :
    (if m.produces r then m.producedValue r else otherwise) =
      if l.produces r then l.producedValue r else otherwise := by
  rcases h.cases with ⟨emptyL, emptyM⟩ | ⟨-, rfl⟩
  · simp [Latch.produces_of_invalid, emptyL, emptyM]
  · rfl

theorem BtbEntry.readsAlike.train {e f : BtbEntry c.xlen} (h : e.readsAlike f) (taken : Bool) :
    (e.train taken).readsAlike (f.train taken) :=
  ⟨h.1, fun valid => by rw [h.2 valid]⟩

/-! What the rules read. -/

namespace CoreState.readsAlike

variable (h : s.readsAlike t)
include h

theorem lD : s.lD.readsAlike t.lD := let ⟨_, _, hD, _⟩ := h; hD
theorem lEX : s.lEX.readsAlike t.lEX := let ⟨_, _, _, hEX, _⟩ := h; hEX
theorem lMEM : s.lMEM.readsAlike t.lMEM := let ⟨_, _, _, _, hMEM, _⟩ := h; hMEM
theorem lWB : s.lWB.readsAlike t.lWB := let ⟨_, _, _, _, _, hWB, _⟩ := h; hWB
theorem entry (i : Slot) : s.btb[i.val].readsAlike t.btb[i.val] := let ⟨_, _, _, _, _, _, hB⟩ := h; hB i

theorem pc : t.pc = s.pc := by rw [h.1]
theorem flags : t.flags = s.flags := by rw [h.1]
theorem halted : t.halted = s.halted := by rw [h.1]
theorem fault : t.fault = s.fault := by rw [h.1]
theorem redirectPending : t.redirectPending = s.redirectPending := by rw [h.1]
theorem fetchEnabled : t.fetchEnabled = s.fetchEnabled := by rw [h.1]
theorem stall : t.stall = s.stall := by rw [h.1]
theorem stopped : t.stopped = s.stopped := by rw [h.1]; rfl
theorem reg (r : Reg) : t.reg r = s.reg r := by rw [h.1]; rfl
theorem busyBit : t.busyBit = s.busyBit := by rw [h.1]; rfl
theorem memRead (a : c.Value) : t.memRead a = s.memRead a := by rw [h.1]; rfl
theorem dmem : t.dmem = s.dmem := by rw [h.1]
theorem entryAt (a : c.Value) : t.entryAt a = s.entryAt a := by rw [h.1]; rfl

theorem victim : t.victim = s.victim := by
  have valid (i : Slot) : t.btb[i.val].valid = s.btb[i.val].valid := (h.entry i).1.symm
  simp only [CoreState.victim, valid]

/-- A slot is a hit by its tag only where it is valid. -/
theorem lookup (a : c.Value) : t.lookup a = s.lookup a := by
  have hit (i : Slot) : (t.btb[i.val].valid && decide (t.btb[i.val].tag = a)) =
      (s.btb[i.val].valid && decide (s.btb[i.val].tag = a)) := by
    obtain ⟨valid, same⟩ := h.entry i
    cases hs : s.btb[i.val].valid with
    | false => simp [← valid, hs]
    | true => rw [← same hs, hs]
  simp only [CoreState.lookup, hit]

theorem operandValue (r : Reg) : t.operandValue r = s.operandValue r := by
  simp only [CoreState.operandValue, h.reg, h.lMEM.forwards, h.lWB.forwards]

theorem captureOperands (l : Latch c.xlen) : t.captureOperands l = s.captureOperands l := by
  simp only [CoreState.captureOperands, h.operandValue]

theorem mustStall (l : Latch c.xlen) : t.mustStall l = s.mustStall l := by
  rcases h.lMEM.cases with ⟨emptyS, emptyT⟩ | ⟨-, same⟩
  · simp only [CoreState.mustStall, h.busyBit, emptyS, emptyT, Bool.false_and]
  · simp only [CoreState.mustStall, h.busyBit, same]

/-! The operations that leave latches and table alone. -/

theorem commitReg (r : Reg) (v : c.Value) : (s.commitReg r v).readsAlike (t.commitReg r v) :=
  ⟨by rw [h.1]; rfl, h.2⟩

theorem raise (k : FaultKind) (p i : c.Value) : (s.raise k p i).readsAlike (t.raise k p i) :=
  ⟨by rw [h.1]; rfl, h.2⟩

theorem setCells (cells : List (Nat × c.Value)) : (s.setCells cells).readsAlike (t.setCells cells) :=
  ⟨by rw [h.1]; rfl, h.2⟩

theorem setFlags (f : Flags) : (s.setFlags f).readsAlike (t.setFlags f) :=
  ⟨by rw [h.1]; rfl, h.2⟩

theorem setStall (b : Bool) : (s.setStall b).readsAlike (t.setStall b) :=
  ⟨by rw [h.1]; rfl, h.2⟩

theorem setBusy (r : Reg) (b : Bool) : (s.setBusy r b).readsAlike (t.setBusy r b) :=
  ⟨by rw [h.1]; rfl, h.2⟩

theorem clearBubble : s.clearBubble.readsAlike t.clearBubble :=
  ⟨by rw [h.1]; rfl, h.2⟩

theorem countCycle : s.countCycle.readsAlike t.countCycle :=
  ⟨by rw [h.1]; rfl, h.2⟩

theorem setBusyAll (ds : List Reg) (b : Bool) : (s.setBusyAll ds b).readsAlike (t.setBusyAll ds b) := by
  induction ds generalizing s t with
  | nil => exact h
  | cons d ds ih => exact ih (h.setBusy d b)

theorem markBusy (l : Latch c.xlen) : (s.markBusy l).readsAlike (t.markBusy l) := by
  unfold CoreState.markBusy
  split
  · exact h.setBusyAll _ true
  · exact h

theorem commitBase (l : Latch c.xlen) : (s.commitBase l).readsAlike (t.commitBase l) := by
  unfold CoreState.commitBase
  cases base? l.toRecord with
  | none => exact h
  | some b => exact h.commitReg b _

theorem commitRd (l : Latch c.xlen) : (s.commitRd l).readsAlike (t.commitRd l) := by
  unfold CoreState.commitRd
  split
  · exact h.commitReg ..
  · exact h

/-! The operations on latches: what they write is the same on both sides, or not valid. -/

theorem retireLatch (l : Latch c.xlen) : (s.retireLatch l).readsAlike (t.retireLatch l) := by
  obtain ⟨e, hF, hD, hEX, hMEM, -, hB⟩ := h
  exact ⟨by rw [e]; rfl, hF, hD, hEX, hMEM, .refl _, hB⟩

theorem passToWB (l : Latch c.xlen) : (s.passToWB l).readsAlike (t.passToWB l) := by
  obtain ⟨e, hF, hD, hEX, -, -, hB⟩ := h
  exact ⟨by rw [e]; rfl, hF, hD, hEX, .refl _, .refl _, hB⟩

theorem passToMEM (l : Latch c.xlen) : (s.passToMEM l).readsAlike (t.passToMEM l) := by
  obtain ⟨e, hF, hD, -, -, hWB, hB⟩ := h
  exact ⟨by rw [e]; rfl, hF, hD, .refl _, .refl _, hWB, hB⟩

theorem passToEX (l : Latch c.xlen) : (s.passToEX l).readsAlike (t.passToEX l) := by
  obtain ⟨e, hF, -, -, hMEM, hWB, hB⟩ := h
  exact ⟨by rw [e]; rfl, hF, .refl _, .refl _, hMEM, hWB, hB⟩

theorem passToD (l : Latch c.xlen) (a : c.Value) : (s.passToD l a).readsAlike (t.passToD l a) := by
  obtain ⟨e, -, -, hEX, hMEM, hWB, hB⟩ := h
  exact ⟨by rw [e]; rfl, .refl _, .refl _, hEX, hMEM, hWB, hB⟩

theorem setLD (l : Latch c.xlen) : (s.setLD l).readsAlike (t.setLD l) := by
  obtain ⟨e, hF, -, hEX, hMEM, hWB, hB⟩ := h
  exact ⟨by rw [e]; rfl, hF, .refl _, hEX, hMEM, hWB, hB⟩

theorem setLF (l : Latch c.xlen) : (s.setLF l).readsAlike (t.setLF l) := by
  obtain ⟨e, -, hD, hEX, hMEM, hWB, hB⟩ := h
  exact ⟨by rw [e]; rfl, .refl _, hD, hEX, hMEM, hWB, hB⟩

theorem fetchIdle : s.fetchIdle.readsAlike t.fetchIdle := by
  obtain ⟨e, -, hD, hEX, hMEM, hWB, hB⟩ := h
  exact ⟨by rw [e]; rfl, .flushed _ _, hD, hEX, hMEM, hWB, hB⟩

theorem redirect (a : c.Value) : (s.redirect a).readsAlike (t.redirect a) := by
  obtain ⟨e, -, -, hEX, hMEM, hWB, hB⟩ := h
  exact ⟨by rw [e]; rfl, .flushed _ _, .flushed _ _, hEX, hMEM, hWB, hB⟩

/-! The operations on the table. -/

/-- An invalid entry may be trained: it stays invalid. -/
theorem updateHistory (i : Slot) (taken : Bool) : (s.updateHistory i taken).readsAlike (t.updateHistory i taken) := by
  obtain ⟨e, hF, hD, hEX, hMEM, hWB, hB⟩ := h
  refine ⟨by rw [e]; rfl, hF, hD, hEX, hMEM, hWB, fun j => ?_⟩
  rw [CoreState.updateHistory_entry, CoreState.updateHistory_entry]
  split
  · exact (hB j).train taken
  · exact hB j

theorem allocate (a : c.Value) (k : Kind) (u : c.Value) : (s.allocate a k u).readsAlike (t.allocate a k u) := by
  have slot := h.victim
  obtain ⟨e, hF, hD, hEX, hMEM, hWB, hB⟩ := h
  refine ⟨by rw [e]; rfl, hF, hD, hEX, hMEM, hWB, fun j => ?_⟩
  rw [CoreState.allocate_entry, CoreState.allocate_entry, slot]
  split
  · exact ⟨rfl, fun _ => rfl⟩
  · exact hB j

theorem allocateBranch (valid : s.lD.valid = true) : s.allocateBranch.readsAlike t.allocateBranch := by
  have same : s.lD = t.lD := h.lD.2 valid
  unfold CoreState.allocateBranch
  rw [← same, h.victim]
  split
  · exact (h.allocate ..).setLD _
  · exact h

theorem issue (valid : s.lD.valid = true) : s.issue.readsAlike t.issue := by
  have same : s.lD = t.lD := h.lD.2 valid
  unfold CoreState.issue
  rw [← same, h.captureOperands]
  exact (h.markBusy _).passToEX _

/-- The table gives a prediction and a target only for a slot that is a hit. -/
theorem fetchPass (l : Latch c.xlen) : (s.fetchPass l).readsAlike (t.fetchPass l) := by
  unfold CoreState.fetchPass
  rw [h.pc, h.lookup]
  cases hit : s.lookup s.pc with
  | none => exact h.passToD ..
  | some i =>
    have same : s.btb[i.val] = t.btb[i.val] := (h.entry i).2 (CoreState.lookup_some hit).1
    simp only [CoreState.predictTaken, ← same]
    exact h.passToD ..

end CoreState.readsAlike

/-! Execute. -/

/-- The answers hand on one latch or both raise, with states that differ at most in what no rule reads. -/
inductive ExOut.ReadsAlike : ExOut c → ExOut c → Prop
  | pass {s t : CoreState c} (l : Latch c.xlen) (h : s.readsAlike t) : ReadsAlike (.pass l s) (.pass l t)
  | raise {s t : CoreState c} (h : s.readsAlike t) : ReadsAlike (.raise s) (.raise t)

theorem exBranch_readsAlike (taken : Bool) (l : Latch c.xlen) (h : s.readsAlike t) :
    (exBranch taken l s).ReadsAlike (exBranch taken l t) := by
  have trained := h.updateHistory l.btbIdx taken
  unfold exBranch
  simp only
  split_ifs
  · exact .raise (trained.raise ..)
  · exact .pass l (trained.redirect _)
  · exact .pass l (trained.redirect _)
  · exact .pass l trained

/-- Execute reads of the core only the flags; operands and addresses stand in its latch. -/
theorem exKind_readsAlike (l : Latch c.xlen) (h : s.readsAlike t) : (exKind l s).ReadsAlike (exKind l t) := by
  unfold exKind
  cases l.kind with
  | add | sub | mul | addl | subl | cmp | cml => exact .pass _ (h.setFlags _)
  | and | or | xor | movc | load | loadp | store | storep | nop | halt => exact .pass _ h
  | invalid => exact .raise (h.raise ..)
  | bz | bnz | bp | bnp | bn | bnn =>
    simp only [exBz, exBnz, exBp, exBnp, exBn, exBnn, h.flags]
    exact exBranch_readsAlike _ l h
  | div =>
    simp only [exDiv]
    split
    · exact .raise (h.raise ..)
    · exact .pass _ (h.setFlags _)
  | jump =>
    simp only [exJump]
    split
    · exact .pass _ (h.redirect _)
    · exact .raise (h.raise ..)
  | jalr =>
    simp only [exJalr]
    split
    · exact .pass _ (h.redirect _)
    · exact .raise (h.raise ..)

/-! The stages: each looks at its latch only where that is valid. -/

theorem wbStage_readsAlike (h : s.readsAlike t) : (wbStage s).readsAlike (wbStage t) := by
  rcases h.lWB.cases with ⟨emptyS, emptyT⟩ | ⟨valid, same⟩
  · rwa [wbStage_eq_self emptyS, wbStage_eq_self emptyT]
  · unfold wbStage
    rw [same, if_pos valid, if_pos valid]
    exact ((h.commitBase _).commitRd _).retireLatch _

theorem memStage_readsAlike (h : s.readsAlike t) : (memStage s).readsAlike (memStage t) := by
  rcases h.lMEM.cases with ⟨emptyS, emptyT⟩ | ⟨valid, same⟩
  · rwa [memStage_eq_self emptyS, memStage_eq_self emptyT]
  · unfold memStage
    rw [same, if_pos valid, if_pos valid, h.memRead]
    split
    · cases s.memRead s.lMEM.memAddr with
      | none => exact h.raise ..
      | some v => exact h.passToWB _
    · split
      · simp only [CoreState.memWrite, h.dmem]
        by_cases inside : inMemory s.lMEM.memAddr = true
        · simp only [inside, if_true]
          exact (h.setCells _).passToWB _
        · simp only [inside]
          exact h.raise ..
      · exact h.passToWB _

theorem exStage_readsAlike (h : s.readsAlike t) : (exStage s).readsAlike (exStage t) := by
  rcases h.lEX.cases with ⟨emptyS, emptyT⟩ | ⟨valid, same⟩
  · rwa [exStage_eq_self emptyS, exStage_eq_self emptyT]
  · have answers := exKind_readsAlike s.lEX h
    unfold exStage
    rw [same, if_pos valid, if_pos valid]
    generalize exKind s.lEX s = a, exKind s.lEX t = b at answers
    cases answers with
    | pass l passed => exact passed.passToMEM l
    | raise raised => exact raised

theorem drfStage_readsAlike (h : s.readsAlike t) : (drfStage s).readsAlike (drfStage t) := by
  rcases h.lD.cases with ⟨emptyS, emptyT⟩ | ⟨valid, same⟩
  · rw [drfStage_of_invalid emptyS, drfStage_of_invalid emptyT]
    exact h.setStall false
  · have allocated := (h.setStall false).allocateBranch valid
    have validNow : (s.setStall false).allocateBranch.lD.valid = true := by simpa using valid
    unfold drfStage
    simp only [CoreState.setStall_lD, same, valid, if_true]
    rw [← allocated.lD.2 validNow, allocated.mustStall]
    split
    · exact allocated.setStall true
    · exact allocated.issue validNow

theorem fetchStage_readsAlike (h : s.readsAlike t) : (fetchStage s).readsAlike (fetchStage t) := by
  unfold fetchStage
  rw [h.redirectPending, h.fetchEnabled, h.pc, h.entryAt, h.stall]
  split
  · exact h.clearBubble.fetchIdle
  · split
    · exact h.fetchIdle
    · cases s.entryAt s.pc with
      | none => exact h.fetchIdle
      | some e =>
        simp only
        split
        · exact h.setLF _
        · exact h.fetchPass _

end

/-- Settles O52: the stages leave alike what a tick reads to end or to go on, and the tick ends with a stage. -/
theorem invalidFieldsNeverRead : Obligations.InvalidFieldsNeverRead := by
  intro c s t h
  have wb := wbStage_readsAlike h
  have mem := memStage_readsAlike wb
  have ex := exStage_readsAlike mem
  simp only [tick, h.stopped, wb.halted, mem.fault, ex.fault]
  split_ifs
  · exact h
  · exact wb.countCycle
  · exact mem.countCycle
  · exact ex.countCycle
  · exact (fetchStage_readsAlike (drfStage_readsAlike ex)).countCycle

end Sys2Proof.Machine
end
